-- ==== Sys2Proof/Word.lean ====
section
/-! DEFINITION. The widths of HUFFCORE's values (spec/00_scope.md R5): SYM_W 8, COUNT_W 32, WEIGHT_W 40,
IDX_W 9 with N_NODE 511, MAX_LEN 255, LEN_W 8, REG_W 32. All values are unsigned (R8). -/

namespace Sys2Proof

/-- A register, a bus word, a command word, a frequency count or an event counter (REG_W, COUNT_W, CNT_W). -/
abbrev Word := BitVec 32

/-- A symbol of the 256-letter alphabet (SYM_W). -/
abbrev Sym := BitVec 8

/-- A node's aggregate frequency (WEIGHT_W). -/
abbrev Weight := BitVec 40

/-- A codeword length, 0..255 (LEN_W); 0 means "no entry" (R35 of spec/10_state.md). -/
abbrev CodeLen := BitVec 8

/-- A codeword, first path step most significant, at most MAX_LEN = 255 bits (R11). -/
abbrev CodeBits := BitVec 255

/-- An index into the node arena, 0..510 (N_NODE = 511). -/
abbrev NodeIx := Fin 511

/-- A result code, the field STATUS[7:4] (R200 of spec/60_exceptions.md). -/
abbrev ErrCode := BitVec 4

end Sys2Proof
end

