-- ==== Sys2Proof/Syntax.lean ====
section
/-! DEFINITION. HUFFCORE's commands, one constructor per row of spec/opcode_table.json (R82 of spec/30_encoding.md).
Operands are the sub-fields of ARG (R81), each at its own width. -/

namespace Sys2Proof

/-- A command, as R87's decoder gives it. WRF's second operand, the count, is the latched DATA0 and no part of the word. -/
inductive Instr where
  /-- NOP (R101). -/
  | nop
  /-- CLRF: clear the frequency table (R102). -/
  | clrf
  /-- WRF s: write one frequency-table entry (R103). -/
  | wrf (sym : Sym)
  /-- RDF s: read one frequency-table entry (R104). -/
  | rdf (sym : Sym)
  /-- BUILD: build the Huffman tree (R120). -/
  | build
  /-- GENC: generate the code table (R140). -/
  | genc
  /-- ENC: encode a symbol stream (R160). -/
  | enc
  /-- DEC: decode a bit stream (R180). -/
  | dec
  /-- RDCODE s, k: read word k of one code-table entry (R105). -/
  | rdcode (sym : Sym) (widx : BitVec 8)
  /-- RDNODE i: read one node of the arena (R106). -/
  | rdnode (nidx : BitVec 9)
  deriving DecidableEq, Repr

end Sys2Proof
end

