-- ==== Sys2Proof/WellFormed.lean ====
section
/-! DEFINITION. What makes a command word legal (R80, R82 to R84 of spec/30_encoding.md), and the operand values
R81 calls legal. A term of Instr is encodable whatever its operands are, since each operand's type is its field's width:
what can be ill-formed is a command word. -/

namespace Sys2Proof

/-- A command word cut into the three fields of R80. -/
structure CommandWord where
  op : BitVec 4
  rsv : BitVec 12
  arg : BitVec 16
  deriving DecidableEq, Repr

/-- OP values 0xA to 0xF are reserved (R84). -/
def CommandWord.opReserved (c : CommandWord) : Bool := decide (10 ≤ c.op.toNat)

/-- R82's must-be-zero bits that lie in ARG, for each OP. -/
def CommandWord.argZeros (c : CommandWord) : Bool :=
  match c.op.toNat with
  | 2 => decide (c.arg.extractLsb' 8 8 = 0)   -- WRF: [15:8]
  | 3 => decide (c.arg.extractLsb' 8 8 = 0)   -- RDF: [15:8]
  | 8 => true                                 -- RDCODE: none
  | 9 => decide (c.arg.extractLsb' 9 7 = 0)   -- RDNODE: [15:9]
  | _ => decide (c.arg = 0)                   -- NOP, CLRF, BUILD, GENC, ENC, DEC: all of ARG

/-- R83's check: RSV is zero (R80) and so is every must-be-zero bit of ARG. -/
def CommandWord.zerosHold (c : CommandWord) : Bool := decide (c.rsv = 0) && c.argZeros

/-- The word is a row of R82: it is illegal neither under R84 nor under R83. -/
def CommandWord.wellFormed (c : CommandWord) : Bool := !c.opReserved && c.zerosHold

/-- R81's "legal" operand values, as far as the word alone can say: WIDX 0..7, NIDX at most 510. The block accepts the
others too, and answers E_RANGE (R85): this is a check for a host's program, no part of decoding. -/
def Instr.operandsLegal : Instr → Bool
  | .nop => true
  | .clrf => true
  | .wrf _ => true
  | .rdf _ => true
  | .build => true
  | .genc => true
  | .enc => true
  | .dec => true
  | .rdcode _ widx => decide (widx.toNat ≤ 7)
  | .rdnode nidx => decide (nidx.toNat ≤ 510)

end Sys2Proof
end

