-- ==== Sys2Proof/Decode.lean ====
section
/-! DEFINITION. The decoder of R87 (spec/30_encoding.md), total on 32-bit words, and after it the encoder, written from
the field table of R80, R81 and the opcode map of R82. `none` is R87's Illegal. -/

namespace Sys2Proof

/-- R87. The range checks of R85 are made by the command, after decode. -/
def decode (v : Word) : Option Instr :=
  match (v.extractLsb' 28 4).toNat with
  | 0 => if v.extractLsb' 0 28 = 0 then some .nop else none
  | 1 => if v.extractLsb' 0 28 = 0 then some .clrf else none
  | 2 => if v.extractLsb' 8 20 = 0 then some (.wrf (v.extractLsb' 0 8)) else none
  | 3 => if v.extractLsb' 8 20 = 0 then some (.rdf (v.extractLsb' 0 8)) else none
  | 4 => if v.extractLsb' 0 28 = 0 then some .build else none
  | 5 => if v.extractLsb' 0 28 = 0 then some .genc else none
  | 6 => if v.extractLsb' 0 28 = 0 then some .enc else none
  | 7 => if v.extractLsb' 0 28 = 0 then some .dec else none
  | 8 => if v.extractLsb' 16 12 = 0 then some (.rdcode (v.extractLsb' 0 8) (v.extractLsb' 8 8)) else none
  | 9 => if v.extractLsb' 9 19 = 0 then some (.rdnode (v.extractLsb' 0 9)) else none
  | _ => none   -- 0xA to 0xF are reserved (R84)

/-- The fields of a 32-bit word (R80). -/
def CommandWord.ofWord (v : Word) : CommandWord :=
  { op := v.extractLsb' 28 4, rsv := v.extractLsb' 16 12, arg := v.extractLsb' 0 16 }

/-- The word of three fields, OP most significant (R80). -/
def CommandWord.toWord (c : CommandWord) : Word := c.op ++ c.rsv ++ c.arg

/-- A command's fields: OP from R82, ARG's sub-fields from R81, every other bit 0. -/
def Instr.fields : Instr → CommandWord
  | .nop => { op := 0x0, rsv := 0, arg := 0 }
  | .clrf => { op := 0x1, rsv := 0, arg := 0 }
  | .wrf sym => { op := 0x2, rsv := 0, arg := 0#8 ++ sym }
  | .rdf sym => { op := 0x3, rsv := 0, arg := 0#8 ++ sym }
  | .build => { op := 0x4, rsv := 0, arg := 0 }
  | .genc => { op := 0x5, rsv := 0, arg := 0 }
  | .enc => { op := 0x6, rsv := 0, arg := 0 }
  | .dec => { op := 0x7, rsv := 0, arg := 0 }
  | .rdcode sym widx => { op := 0x8, rsv := 0, arg := widx ++ sym }
  | .rdnode nidx => { op := 0x9, rsv := 0, arg := 0#7 ++ nidx }

/-- The command word a host writes to CMD to issue `i` (R80, R90). -/
def encode (i : Instr) : Word := i.fields.toWord

/-- The opcode table's own numbering: one 32-bit word, bit 0 least significant (R8, R80). Bits at or above `nbits` are 0;
there is one length, so bits above 31 do not exist. -/
def decodeTableWord (nbits w : Nat) : Option Instr := decode (BitVec.ofNat 32 (w % 2 ^ nbits))

end Sys2Proof
end

