-- ==== Sys2Proof/Config.lean ====
section
/-! DEFINITION. What the spec leaves OPEN (spec/92_eei_decisions.md, "OPEN parameters"), as constants with no body.
OUT_CAP, the third OPEN parameter, is plain data in State (`outCap`, log 2), so that a statement over every state is a
statement over every capacity. -/

namespace Sys2Proof

/-- FREE VALUE (log 3): the tie-break oracle of R122 of spec/41_tree_builder.md. The k-th dequeue of a run draws
`tieSel k`; the element taken from the tied set C is the one at position `tieSel k mod |C|`, so every element of every
C is admitted at every dequeue. -/
opaque Config.tieSel : Nat → Nat

/-- FREE VALUE (log 12): BASE, the block's base address in the host's own address space (R67 of spec/20_memory.md).
No step reads it. -/
opaque Config.base : Nat

end Sys2Proof
end

