-- ==== Sys2Proof/Machine/State.lean ====
section
/-! DEFINITION. HUFFCORE's state as plain data: the record of R49 of spec/10_state.md, the host's side of the ports, and
the host and schedule that say who moves next (R21; log 1). -/

namespace Sys2Proof.Machine

/-- One entry of the node arena (R31). -/
inductive Node where
  /-- kind 0: a symbol and its weight. -/
  | leaf (sym : Sym) (w : Weight)
  /-- kind 1: two children and the sum of their weights. -/
  | internal (left right : NodeIx) (w : Weight)
  deriving DecidableEq, Repr

/-- A table with its own index space (R61 of spec/20_memory.md): the entries that differ from the table's reset entry, by
strictly rising index. An unlisted index reads as the reset entry, so equal tables are equal lists (log 14). -/
abbrev Table (α : Type) := List (Nat × α)

/-- The sequencer state `seq` (R37). -/
inductive SeqState where
  /-- IDLE: no command; BUSY = 0. -/
  | idle
  /-- EXEC: a command was accepted and its first core step has not happened. -/
  | exec
  /-- ENC_FETCH: ENC waits for, or takes, the next SYM_IN token. -/
  | encFetch
  /-- ENC_BIT(s, j): ENC is to emit bit j of CODE[s]. -/
  | encBit (sym : Sym) (j : Nat)
  /-- ENC_CLOSE(e): ENC is to emit CLOSE on BIT_OUT, then complete with code e. -/
  | encClose (e : ErrCode)
  /-- DEC_FETCH: DEC waits for, or takes, the next BIT_IN token. -/
  | decFetch
  /-- DEC_EMIT(s): DEC is to emit SYM(s) on SYM_OUT. -/
  | decEmit (sym : Sym)
  /-- DEC_CLOSE: DEC is to emit END on SYM_OUT, then complete with code 0. -/
  | decClose
  deriving DecidableEq, Repr

/-- A token of SYM_IN or SYM_OUT: SYM(s), or END (R10, R40). -/
inductive SymToken where
  | sym (s : Sym)
  | fin
  deriving DecidableEq, Repr

/-- A token of BIT_IN: BIT(b), or END (R10, R40). -/
inductive BitToken where
  | bit (b : Bool)
  | fin
  deriving DecidableEq, Repr

/-- A token of BIT_OUT: BIT(b), or CLOSE (R10, R40). -/
inductive OutBitToken where
  | bit (b : Bool)
  | close
  deriving DecidableEq, Repr

/-- The input ports (R40). -/
inductive InPort where
  | symIn
  | bitIn
  deriving DecidableEq, Repr

/-- The output ports (R40). -/
inductive OutPort where
  | bitOut
  | symOut
  deriving DecidableEq, Repr

/-- What a GET gave the host: the token and, by its form, the port it came from (R89 of spec/30_encoding.md). -/
inductive GotToken where
  | bitOut (t : OutBitToken)
  | symOut (t : SymToken)
  deriving DecidableEq, Repr

/-- The 16 words of the register map, in offset order (R22). -/
inductive Reg where
  | id | cmd | status | treeinfo
  | data0 | res0 | res1 | res2
  | res3 | errinfo | srst | encNsym
  | encNbit | decNbit | decNsym | reserved
  deriving DecidableEq, Repr

/-- The errors of R200 and R201 (spec/60_exceptions.md); E_NOCODE carries the symbol it reports. -/
inductive CmdError where
  | illegal
  | range
  | noCode (sym : Sym)
  deriving DecidableEq, Repr

/-- A host operation (R89 of spec/30_encoding.md). POLL and DRAIN are repetitions: each keeps its place until the read or
the removal that ends it (log 7). -/
inductive HostOp where
  /-- WR REG, v: a bus write. -/
  | wr (r : Reg) (v : Word)
  /-- RD REG: a bus read. -/
  | rd (r : Reg)
  /-- POLL: repeat RD STATUS until BUSY reads 0. -/
  | poll
  /-- PUTSYM: append a token to SYM_IN. -/
  | putSym (t : SymToken)
  /-- PUTBIT: append a token to BIT_IN. -/
  | putBit (t : BitToken)
  /-- GET PORT: remove the head token of an output port. -/
  | get (p : OutPort)
  /-- DRAIN PORT: repeat GET until the token removed is CLOSE or END (R91). -/
  | drain (p : OutPort)
  /-- FLUSH PORT: withdraw every untaken token of an input port. -/
  | flush (p : InPort)
  /-- RESET: assert RST_N. -/
  | reset
  deriving DecidableEq, Repr

/-- The two agents (R21). -/
inductive Agent where
  | host
  | core
  deriving DecidableEq, Repr

/-- The stops of the model. The spec stops the block nowhere: each of these stands for arena contents that no BUILD leaves
(log 10), and `Sys2Proof.Safety.Inv` excludes them all. -/
inductive Fault where
  /-- Raised by GENC when the walk of R141 goes deeper than MAX_LEN = 255 steps, which no tree of 256 leaves does (R7).
  Safe: the model stops where the spec gives no codeword. -/
  | treeTooDeep
  /-- Raised by GENC (R142) and by DEC's fetch (R182) when TREE_SIZE = 1 and NODE[ROOT] is an internal node, which R34
  excludes. Safe: the model stops where the spec names no symbol. -/
  | singletonRootNotLeaf
  /-- Raised by DEC's fetch (R183) when TREE_SIZE >= 2 and NODE[DEC_PTR] is a leaf; R183: "At this step NODE[DEC_PTR] is
  always an internal node". Safe: the model stops where LEFT and RIGHT have no meaning. -/
  | pointerAtLeaf
  deriving DecidableEq, Repr

/-- A command without a meaning. -/
inductive Refusal where
  /-- Raised only by an arm of `exec` whose instruction has no meaning yet. Safe. -/
  | notModelled (mnemonic : String)
  deriving DecidableEq, Repr

/-- The whole machine (R49 of spec/10_state.md). -/
structure State where
  -- the bus-visible registers (R22)
  cmd : Word
  data0 : Word
  res0 : Word
  res1 : Word
  res2 : Word
  res3 : Word
  errinfo : Word
  errcode : ErrCode
  overrun : Bool
  decMidpath : Bool
  codesValid : Bool
  encNsym : Word
  encNbit : Word
  decNbit : Word
  decNsym : Word
  -- the tables (R30 to R35)
  freq : Table Word
  node : Table Node
  treeSize : Fin 257
  root : NodeIx
  len : Table CodeLen
  code : Table CodeBits
  -- not on the bus (R37 to R39)
  seq : SeqState
  lcmd : Word
  ldata : Word
  decPtr : NodeIx
  -- the host's side of the ports (R42, R43)
  qSymIn : List SymToken
  qBitIn : List BitToken
  rBitOut : List OutBitToken
  rSymOut : List SymToken
  -- the model's own: the OPEN parameter OUT_CAP (none is unbounded; log 2) and the count of tie draws (log 3)
  outCap : Option Nat
  draws : Nat
  -- the model's own: the host's remaining operations, who moves next (log 1), and what the host last read and got (log 8)
  program : List HostOp
  sched : List Agent
  rdata : Word
  got : Option GotToken
  deriving DecidableEq, Repr

/-- The machine right after reset (R230 of spec/70_reset_and_hazards.md), with nothing offered on the ports, a host that
has nothing to do, and unbounded output buffers (logs 1, 2, 4, 5). ID is a constant of the read path (R23). -/
def State.reset : State where
  cmd := 0
  data0 := 0
  res0 := 0
  res1 := 0
  res2 := 0
  res3 := 0
  errinfo := 0
  errcode := 0
  overrun := false
  decMidpath := false
  codesValid := false
  encNsym := 0
  encNbit := 0
  decNbit := 0
  decNsym := 0
  freq := []
  node := []
  treeSize := 0
  root := 0
  len := []
  code := []
  seq := .idle
  lcmd := 0
  ldata := 0
  decPtr := 0
  qSymIn := []
  qBitIn := []
  rBitOut := []
  rSymOut := []
  outCap := none
  draws := 0
  program := []
  sched := []
  rdata := 0
  got := none

end Sys2Proof.Machine
end

