-- ==== Sys2Proof/Machine/Operands.lean ====
section
/-! DEFINITION. Operand forms: reading and writing a table entry (R61 of spec/20_memory.md), the index types' reading of
an operand, the 32-bit slices of RDCODE (R105 of spec/40_table_access.md), and the register map of R22. -/

namespace Sys2Proof.Machine

/-- The entry at index `i`; an unlisted index holds the table's reset entry `d`. -/
def tableGet {α : Type} (d : α) : Table α → Nat → α
  | [], _ => d
  | (k, v) :: t, i => if k = i then v else tableGet d t i

/-- `t` without its entry at index `i`. -/
def tableErase {α : Type} : Table α → Nat → Table α
  | [], _ => []
  | (k, v) :: t, i => if k = i then tableErase t i else (k, v) :: tableErase t i

/-- `t` with an entry for the index `i`, which `t` does not list, at its place in the rising order. -/
def tableInsert {α : Type} : Table α → Nat → α → Table α
  | [], i, v => [(i, v)]
  | (k, x) :: t, i, v => if i < k then (i, v) :: (k, x) :: t else (k, x) :: tableInsert t i v

/-- `t` with `v` at index `i`. The form stays canonical: the reset entry `d` is not listed. -/
def tableSet {α : Type} [DecidableEq α] (d : α) (t : Table α) (i : Nat) (v : α) : Table α :=
  if v = d then tableErase t i else tableInsert (tableErase t i) i v

/-- The canonical form of a table of `n` entries with reset entry `d`: rising indices below `n`, no reset entry listed. -/
abbrev tableWf {α : Type} (d : α) (n : Nat) (t : Table α) : Prop :=
  t.Pairwise (fun a b => a.1 < b.1) ∧ ∀ c ∈ t, c.1 < n ∧ c.2 ≠ d

/-- The NODE entry that the model lists nowhere (log 4). -/
def blankNode : Node := .leaf 0 0

/-- FREQ[s] (R30). -/
def State.freqAt (s : State) (sym : Sym) : Word := tableGet 0 s.freq sym.toNat

/-- NODE[i] (R31). -/
def State.nodeAt (s : State) (i : NodeIx) : Node := tableGet blankNode s.node i.val

/-- LEN[s] (R35). -/
def State.lenAt (s : State) (sym : Sym) : CodeLen := tableGet 0 s.len sym.toNat

/-- CODE[s] (R35). -/
def State.codeAt (s : State) (sym : Sym) : CodeBits := tableGet 0 s.code sym.toNat

/-- W(i): the weight of a node (R31). -/
def Node.weight : Node → Weight
  | .leaf _ w => w
  | .internal _ _ w => w

/-- KIND(i) = 1 (R31). -/
def Node.isInternal : Node → Bool
  | .leaf _ _ => false
  | .internal _ _ _ => true

/-- A node index from a number; every number the machine makes is below 511 (R124 of spec/41_tree_builder.md). -/
def nodeIx (k : Nat) : NodeIx := Fin.ofNat 511 k

/-- Codeword bits [32k+31 : 32k] (R105). -/
def codeWord (c : CodeBits) (k : Nat) : Word := (c >>> (32 * k)).setWidth 32

/-- CODE[s][j] (R163 of spec/43_encoder.md). -/
def codeBit (c : CodeBits) (j : Nat) : Bool := c.getLsbD j

/-- The word index of a register (R22). -/
def Reg.index : Reg → BitVec 4
  | .id => 0x0
  | .cmd => 0x1
  | .status => 0x2
  | .treeinfo => 0x3
  | .data0 => 0x4
  | .res0 => 0x5
  | .res1 => 0x6
  | .res2 => 0x7
  | .res3 => 0x8
  | .errinfo => 0x9
  | .srst => 0xA
  | .encNsym => 0xB
  | .encNbit => 0xC
  | .decNbit => 0xD
  | .decNsym => 0xE
  | .reserved => 0xF

/-- The register at a word index: the bus has 16 word slots and each is one register (R20, R22, R60). -/
def Reg.ofIndex (w : BitVec 4) : Reg :=
  match w.toNat with
  | 0 => .id
  | 1 => .cmd
  | 2 => .status
  | 3 => .treeinfo
  | 4 => .data0
  | 5 => .res0
  | 6 => .res1
  | 7 => .res2
  | 8 => .res3
  | 9 => .errinfo
  | 10 => .srst
  | 11 => .encNsym
  | 12 => .encNbit
  | 13 => .decNbit
  | 14 => .decNsym
  | _ => .reserved

/-- off(REG): the byte offset, 4 times the word index (R20). -/
def Reg.offset (r : Reg) : BitVec 6 := r.index ++ 0#2

/-- The register a 6-bit byte offset reaches: the bus carries only offset bits [5:2] (R60, R62 of spec/20_memory.md). -/
def Reg.ofOffset (off : BitVec 6) : Reg := Reg.ofIndex (off.extractLsb' 2 4)

/-- The address of a register in the host's own address space (R67). -/
def Reg.hostAddress (r : Reg) : Nat := Config.base + r.offset.toNat

end Sys2Proof.Machine
end

