-- ==== Sys2Proof/Machine/Flags.lean ====
section
/-! DEFINITION. The quantities STATUS and TREEINFO show that have no storage of their own (R25, R26, R32 of
spec/10_state.md), and the two words themselves. -/

namespace Sys2Proof.Machine

/-- BUSY = 1 iff seq is not IDLE (R37). -/
def State.busy (s : State) : Bool :=
  match s.seq with
  | .idle => false
  | _ => true

/-- TREE_PRESENT = 1 iff TREE_SIZE >= 1 (R25). -/
def State.treePresent (s : State) : Bool := decide (1 ≤ s.treeSize.val)

/-- SINGLETON = 1 iff TREE_SIZE = 1 (R25). -/
def State.singleton (s : State) : Bool := decide (s.treeSize.val = 1)

/-- ERR = 1 iff ERRCODE is not 0 (R25, R200). -/
def State.err (s : State) : Bool := decide (s.errcode ≠ 0)

/-- NODE_COUNT (R32). -/
def State.nodeCount (s : State) : Nat := if s.treeSize.val = 0 then 0 else 2 * s.treeSize.val - 1

/-- STATUS as a read returns it, bit 31 first (R25). -/
def State.statusWord (s : State) : Word :=
  0#21 ++ BitVec.ofBool s.singleton ++ BitVec.ofBool s.decMidpath ++ BitVec.ofBool s.overrun ++ s.errcode
    ++ BitVec.ofBool s.err ++ BitVec.ofBool s.codesValid ++ BitVec.ofBool s.treePresent ++ BitVec.ofBool s.busy

/-- TREEINFO = (7'b0, ROOT[8:0], 7'b0, TREE_SIZE[8:0]) (R26). -/
def State.treeInfoWord (s : State) : Word :=
  0#7 ++ BitVec.ofNat 9 s.root.val ++ 0#7 ++ BitVec.ofNat 9 s.treeSize.val

end Sys2Proof.Machine
end

