-- ==== Sys2Proof/Machine/Ops.lean ====
section
/-! DEFINITION. The operations every step is made of: table writes, acceptance, completion, errors (what stands here for
taking an exception and returning from one), reset, the bus, and the four ports. -/

namespace Sys2Proof.Machine

/-- `seq <- S` (R9 of spec/00_scope.md). -/
def State.setSeq (q : SeqState) (s : State) : State := { s with seq := q }

/-- FREQ[sym] <- n. -/
def State.setFreq (sym : Sym) (n : Word) (s : State) : State := { s with freq := tableSet 0 s.freq sym.toNat n }

/-- RES0..RES3, always written together (R28). -/
def State.setRes (r0 r1 r2 r3 : Word) (s : State) : State := { s with res0 := r0, res1 := r1, res2 := r2, res3 := r3 }

/-- R204 of spec/60_exceptions.md: `complete(e)`. -/
def State.complete (e : ErrCode) (s : State) : State := { s with errcode := e, seq := .idle }

/-- R203: acceptance of the command word `v`. -/
def State.accept (v : Word) (s : State) : State :=
  { s with cmd := v, lcmd := v, ldata := s.data0, errcode := 0, errinfo := 0, seq := .exec }

/-- R205: a CMD write while BUSY = 1 is dropped. -/
def State.overrunCmd (s : State) : State := { s with overrun := true }

/-- R200: the code of an error. -/
def CmdError.code : CmdError → ErrCode
  | .illegal => 1
  | .range => 2
  | .noCode _ => 3

/-- R201: `raise`. It is the block's whole answer to an error: there is no vector, no handler and no saved context (R206).
E_ILLEGAL and E_RANGE complete at once; E_NOCODE records the symbol and goes to close the bit sink (R162). What ends an
error is the next acceptance, which clears ERRCODE and ERRINFO (R211): there is no return operation. -/
def State.raise (e : CmdError) (s : State) : State :=
  match e with
  | .illegal => s.complete e.code
  | .range => s.complete e.code
  | .noCode sym => { s with errinfo := sym.setWidth 32, seq := .encClose e.code }

/-- R230 and R231 of spec/70_reset_and_hazards.md: every piece of block state at its reset value. The host's side of the
ports is not touched (R233), and neither are the host, the schedule, OUT_CAP and the count of draws, which are no state
of the block. -/
def State.blockReset (s : State) : State :=
  { State.reset with
    qSymIn := s.qSymIn, qBitIn := s.qBitIn, rBitOut := s.rBitOut, rSymOut := s.rSymOut,
    outCap := s.outCap, draws := s.draws, program := s.program, sched := s.sched, rdata := s.rdata, got := s.got }

/-- ID reads 0x4855_4646 always (R23). -/
def idWord : Word := 0x48554646

/-- The value a bus read returns (R22 to R29, R44 to R46, R63). A read changes nothing in the block (R65). -/
def State.readReg (r : Reg) (s : State) : Word :=
  match r with
  | .id => idWord
  | .cmd => s.cmd
  | .status => s.statusWord
  | .treeinfo => s.treeInfoWord
  | .data0 => s.data0
  | .res0 => s.res0
  | .res1 => s.res1
  | .res2 => s.res2
  | .res3 => s.res3
  | .errinfo => s.errinfo
  | .srst => 0        -- write-only (R45)
  | .encNsym => s.encNsym
  | .encNbit => s.encNbit
  | .decNbit => s.decNbit
  | .decNsym => s.decNsym
  | .reserved => 0    -- R46

/-- A bus write (R24, R25, R27, R45, R63, R203, R205). A write to a read-only register or to the reserved word has no
effect. -/
def State.writeReg (r : Reg) (v : Word) (s : State) : State :=
  match r with
  | .id => s
  | .cmd => if s.busy then s.overrunCmd else s.accept v
  | .status => if v.getLsbD 8 then { s with overrun := false } else s
  | .treeinfo => s
  | .data0 => { s with data0 := v }
  | .res0 => s
  | .res1 => s
  | .res2 => s
  | .res3 => s
  | .errinfo => s
  | .srst => if v.getLsbD 0 then s.blockReset else s
  | .encNsym => s
  | .encNbit => s
  | .decNbit => s
  | .decNsym => s
  | .reserved => s

/-- MemRead(off, 4) (R9, R60). -/
def State.memRead (off : BitVec 6) (s : State) : Word := s.readReg (Reg.ofOffset off)

/-- MemWrite(off, 4, v) (R9, R60). -/
def State.memWrite (off : BitVec 6) (v : Word) (s : State) : State := s.writeReg (Reg.ofOffset off) v

/-- An output buffer that holds `n` tokens has free space: n < OUT_CAP, and always when OUT_CAP is unbounded (R43). -/
def hasRoom (outCap : Option Nat) (n : Nat) : Bool :=
  match outCap with
  | none => true
  | some c => decide (n < c)

/-- Put(BIT_OUT, _) is enabled (R43). -/
def State.bitOutReady (s : State) : Bool := hasRoom s.outCap s.rBitOut.length

/-- Put(SYM_OUT, _) is enabled (R43). -/
def State.symOutReady (s : State) : Bool := hasRoom s.outCap s.rSymOut.length

/-- Put(BIT_OUT, t) (R43). -/
def State.putBitOut (t : OutBitToken) (s : State) : State := { s with rBitOut := s.rBitOut ++ [t] }

/-- Put(SYM_OUT, t) (R43). -/
def State.putSymOut (t : SymToken) (s : State) : State := { s with rSymOut := s.rSymOut ++ [t] }

/-- Take(SYM_IN): the head token and the state without it; none while the port has no token (R42). -/
def State.takeSymIn (s : State) : Option (SymToken × State) :=
  match s.qSymIn with
  | [] => none
  | t :: q => some (t, { s with qSymIn := q })

/-- Take(BIT_IN) (R42). -/
def State.takeBitIn (s : State) : Option (BitToken × State) :=
  match s.qBitIn with
  | [] => none
  | t :: q => some (t, { s with qBitIn := q })

end Sys2Proof.Machine
end

