-- ==== Sys2Proof/Machine/HostAgent.lean ====
section
/-! DEFINITION. The host agent (R21 of spec/10_state.md): what each host operation of R89 (spec/30_encoding.md) does to
the machine, and when the host goes on to its next one. -/

namespace Sys2Proof.Machine

/-- GET: the host removes the head token of an output port (R43). Nothing happens while the port is empty. -/
def State.getToken (p : OutPort) (s : State) : State :=
  match p with
  | .bitOut =>
    match s.rBitOut with
    | [] => s
    | t :: r => { s with rBitOut := r, got := some (.bitOut t) }
  | .symOut =>
    match s.rSymOut with
    | [] => s
    | t :: r => { s with rSymOut := r, got := some (.symOut t) }

/-- A bus read: its data goes to the host, and nothing else changes (R20, R65). -/
def State.busRead (r : Reg) (s : State) : State := { s with rdata := s.readReg r }

/-- What one host step of an operation does. -/
def hostOp (op : HostOp) (s : State) : State :=
  match op with
  | .wr r v => s.writeReg r v
  | .rd r => s.busRead r
  | .poll => s.busRead .status
  | .putSym t => { s with qSymIn := s.qSymIn ++ [t] }
  | .putBit t => { s with qBitIn := s.qBitIn ++ [t] }
  | .get p => s.getToken p
  | .drain p => s.getToken p
  | .flush .symIn => { s with qSymIn := [] }
  | .flush .bitIn => { s with qBitIn := [] }
  | .reset => s.blockReset

/-- The operation ends with this step: POLL once BUSY reads 0, GET once there is a token to remove, DRAIN once the token
removed is CLOSE or END, every other operation at once (R89, R91; log 7). -/
def hostOpDone (op : HostOp) (s : State) : Bool :=
  match op with
  | .poll => !s.busy
  | .get .bitOut => !s.rBitOut.isEmpty
  | .get .symOut => !s.rSymOut.isEmpty
  | .drain .bitOut => decide (s.rBitOut.head? = some .close)
  | .drain .symOut => decide (s.rSymOut.head? = some .fin)
  | .wr _ _ => true
  | .rd _ => true
  | .putSym _ => true
  | .putBit _ => true
  | .flush _ => true
  | .reset => true

/-- One turn of the host: the first of its remaining operations. -/
def hostStep (s : State) : State :=
  match s.program with
  | [] => s
  | op :: rest => if hostOpDone op s then { hostOp op s with program := rest } else hostOp op s

end Sys2Proof.Machine
end

