-- ==== Sys2Proof/Machine/HostProgram.lean ====
section
/-! DEFINITION. The host's notation: the pseudo-instructions of R90 and R91 (spec/30_encoding.md) as lists of host
operations, and the encoding of a host program of R92. They are what a host runs, not steps of the block (D39). -/

namespace Sys2Proof.Machine

/-- The result registers a pseudo-instruction reads after its POLL (R90). -/
def readsAfter : Instr → List Reg
  | .nop => []
  | .clrf => []
  | .wrf _ => []
  | .rdf _ => [.res0]
  | .build => []
  | .genc => []
  | .enc => []
  | .dec => []
  | .rdcode _ _ => [.res0, .res1]
  | .rdnode _ => [.res0, .res1, .res2, .res3]

/-- R90: `WR CMD, word ; POLL`, then the reads. WRF's `WR DATA0, n` stands before it, see `pseudoWrf`. -/
def pseudo (i : Instr) : List HostOp := [.wr .cmd (encode i), .poll] ++ (readsAfter i).map .rd

/-- R90: `WRF s, n`. -/
def pseudoWrf (sym : Sym) (n : Word) : List HostOp := .wr .data0 n :: pseudo (.wrf sym)

/-- R90: `SRST`. -/
def pseudoSrst : List HostOp := [.wr .srst 1]

/-- R91: `LOADFREQ s1:n1, s2:n2, ...`. -/
def loadFreq (entries : List (Sym × Word)) : List HostOp :=
  pseudo .clrf ++ entries.flatMap (fun e => pseudoWrf e.1 e.2)

/-- R91: `SENDSYMS`. -/
def sendSyms (text : List Sym) : List HostOp := text.map (fun c => .putSym (.sym c)) ++ [.putSym .fin]

/-- R91: `SENDBITS`. -/
def sendBits (bits : List Bool) : List HostOp := bits.map (fun b => .putBit (.bit b)) ++ [.putBit .fin]

/-- R236 of spec/70_reset_and_hazards.md: compress the stream `text`, whose counts the host has found, then decompress
the collected bits. -/
def compressOps (entries : List (Sym × Word)) (text : List Sym) : List HostOp :=
  loadFreq entries ++ pseudo .build ++ pseudo .genc ++ sendSyms text ++ pseudo .enc ++ [.drain .bitOut, .rd .status]

/-- R236, step 6. -/
def decompressOps (bits : List Bool) : List HostOp := sendBits bits ++ pseudo .dec ++ [.drain .symOut]

/-- A bus transaction as R92 lists it: `W off v` or `R off`. -/
inductive BusTransaction where
  | w (off : BitVec 6) (v : Word)
  | r (off : BitVec 6)
  deriving DecidableEq, Repr

/-- The bus transactions of one operation; POLL is listed as one read of STATUS, which a run repeats (log 15). -/
def HostOp.transactions : HostOp → List BusTransaction
  | .wr r v => [.w r.offset v]
  | .rd r => [.r r.offset]
  | .poll => [.r Reg.status.offset]
  | .putSym _ => []
  | .putBit _ => []
  | .get _ => []
  | .drain _ => []
  | .flush _ => []
  | .reset => []

/-- What R92 calls the encoding of a host program: its bus transactions and its token lists on the four ports. -/
structure ProgramEncoding where
  transactions : List BusTransaction
  symIn : List SymToken
  bitIn : List BitToken
  bitOut : List OutBitToken
  symOut : List SymToken
  deriving DecidableEq, Repr

/-- The token an operation offers on SYM_IN, if it offers one. -/
def HostOp.offersSym : HostOp → Option SymToken
  | .putSym t => some t
  | .wr _ _ => none
  | .rd _ => none
  | .poll => none
  | .putBit _ => none
  | .get _ => none
  | .drain _ => none
  | .flush _ => none
  | .reset => none

/-- The token an operation offers on BIT_IN, if it offers one. -/
def HostOp.offersBit : HostOp → Option BitToken
  | .putBit t => some t
  | .wr _ _ => none
  | .rd _ => none
  | .poll => none
  | .putSym _ => none
  | .get _ => none
  | .drain _ => none
  | .flush _ => none
  | .reset => none

/-- A removed token that came from BIT_OUT. -/
def GotToken.fromBitOut : GotToken → Option OutBitToken
  | .bitOut t => some t
  | .symOut _ => none

/-- A removed token that came from SYM_OUT. -/
def GotToken.fromSymOut : GotToken → Option SymToken
  | .bitOut _ => none
  | .symOut t => some t

/-- R92: the encoding of a host program. Its bus transactions and the tokens it offers stand in its operations; the tokens
its GETs and DRAINs remove, in order, are what a run gives it (`tokensRemoved`; log 15). -/
def programEncoding (ops : List HostOp) (removed : List GotToken) : ProgramEncoding :=
  { transactions := ops.flatMap HostOp.transactions
    symIn := ops.filterMap HostOp.offersSym
    bitIn := ops.filterMap HostOp.offersBit
    bitOut := removed.filterMap GotToken.fromBitOut
    symOut := removed.filterMap GotToken.fromSymOut }

/-- The value of a `W 0x04 v` transaction, the offset decoded as the bus does (R60). -/
def BusTransaction.commandWord : BusTransaction → Option Word
  | .w off v => if Reg.ofOffset off = .cmd then some v else none
  | .r _ => none

/-- R92: the part of an encoding that R87 decodes, the command words of its CMD writes; `none` stands for Illegal. -/
def ProgramEncoding.commands (e : ProgramEncoding) : List (Option Instr) :=
  (e.transactions.filterMap BusTransaction.commandWord).map decode

end Sys2Proof.Machine
end

