-- ==== Sys2Proof/Machine/CodeTable.lean ====
section
/-! DEFINITION. GENC (spec/42_code_table.md). -/

namespace Sys2Proof.Machine

/-- A code table under construction: LEN and CODE (R35). -/
structure CodeTab where
  len : Table CodeLen
  code : Table CodeBits
  deriving DecidableEq, Repr

/-- LEN[sym] <- l; CODE[sym] <- c. -/
def CodeTab.put (sym : Sym) (l : CodeLen) (c : CodeBits) (t : CodeTab) : CodeTab :=
  { len := tableSet 0 t.len sym.toNat l, code := tableSet 0 t.code sym.toNat c }

/-- R141's `walk(i, len, code)`, writing into `t`. The first argument bounds the depth: a walk that would pass it gives
none. From a root, 256 levels reach every leaf at depth 255 or less. -/
def walk (node : Table Node) : Nat → NodeIx → Nat → CodeBits → CodeTab → Option CodeTab
  | 0, _, _, _, _ => none
  | d + 1, i, l, c, t =>
    match tableGet blankNode node i.val with
    | .leaf sym _ => some (t.put sym (BitVec.ofNat 8 l) c)
    | .internal left right _ =>
      match walk node d left (l + 1) (2 * c) t with
      | none => none
      | some t' => walk node d right (l + 1) (2 * c + 1) t'

/-- The code table of a tree (R141, R142): every entry is cleared and then the tree's are written. The absent tree has
an empty table, the singleton tree the fixed codeword "1". -/
def genTable (size : Nat) (root : NodeIx) (node : Table Node) : Except Fault CodeTab :=
  match size with
  | 0 => .ok { len := [], code := [] }
  | 1 =>
    match tableGet blankNode node root.val with
    | .leaf sym _ => .ok (CodeTab.put sym 1 1 { len := [], code := [] })
    | .internal _ _ _ => .error .singletonRootNotLeaf
  | _ =>
    match walk node 256 root 0 0 { len := [], code := [] } with
    | some t => .ok t
    | none => .error .treeTooDeep

/-- R140, with R143's completion. -/
def execGenc (s : State) : Host.Outcome State Fault Refusal :=
  match genTable s.treeSize.val s.root s.node with
  | .ok t => .next ({ s with len := t.len, code := t.code, codesValid := true }.complete 0)
  | .error e => .fault e

end Sys2Proof.Machine
end

