-- ==== Sys2Proof/Machine/Decoder.lean ====
section
/-! DEFINITION. DEC (spec/44_decoder.md): the start step that the command word selects, and the core steps at DEC_FETCH,
DEC_EMIT and DEC_CLOSE. A step that needs a port it cannot use leaves the core held (log 6). -/

namespace Sys2Proof.Machine

/-- R180, with R181's short way for the absent tree. -/
def execDec (s : State) : Host.Outcome State Fault Refusal :=
  .next ({ s with decNbit := 0, decNsym := 0, decMidpath := false, decPtr := s.root }.setSeq
    (if s.treeSize.val = 0 then .decClose else .decFetch))

/-- R182: DEC's fetch on the singleton tree. -/
def decFetchSingleton (s : State) : Host.Outcome State Fault Refusal :=
  match s.takeBitIn with
  | none => .next s
  | some (.fin, s') => .next (s'.setSeq .decClose)
  | some (.bit _, s') =>
    match s'.nodeAt s'.root with
    | .leaf sym _ => .next ({ s' with decNbit := s'.decNbit + 1 }.setSeq (.decEmit sym))
    | .internal _ _ _ => .fault .singletonRootNotLeaf

/-- R183 and R185: DEC's fetch on a tree of two or more symbols. -/
def decFetchTree (s : State) : Host.Outcome State Fault Refusal :=
  match s.takeBitIn with
  | none => .next s
  | some (.fin, s') => .next ({ s' with decMidpath := decide (s'.decPtr ≠ s'.root) }.setSeq .decClose)
  | some (.bit b, s') =>
    match s'.nodeAt s'.decPtr with
    | .leaf _ _ => .fault .pointerAtLeaf
    | .internal left right _ =>
      let p := if b then right else left
      let s'' := { s' with decNbit := s'.decNbit + 1 }
      match s'.nodeAt p with
      | .leaf sym _ => .next ({ s'' with decPtr := s''.root }.setSeq (.decEmit sym))
      | .internal _ _ _ => .next { s'' with decPtr := p }

/-- The core step at DEC_FETCH. Every DEC on the absent tree went straight to DEC_CLOSE (R181). -/
def decFetchStep (s : State) : Host.Outcome State Fault Refusal :=
  if s.treeSize.val ≤ 1 then decFetchSingleton s else decFetchTree s

/-- R184: the core step at DEC_EMIT(s). -/
def decEmitStep (sym : Sym) (s : State) : State :=
  if s.symOutReady then { s.putSymOut (.sym sym) with decNsym := s.decNsym + 1 }.setSeq .decFetch else s

/-- R186: the core step at DEC_CLOSE. -/
def decCloseStep (s : State) : State :=
  if s.symOutReady then (s.putSymOut .fin).complete 0 else s

end Sys2Proof.Machine
end

