-- ==== Sys2Proof/Machine/Encoder.lean ====
section
/-! DEFINITION. ENC (spec/43_encoder.md): the start step that the command word selects, and the core steps at ENC_FETCH,
ENC_BIT and ENC_CLOSE. A step that needs a port it cannot use leaves the core held: the state does not change (log 6). -/

namespace Sys2Proof.Machine

/-- R160: the core step at EXEC for ENC. -/
def execEnc (s : State) : Host.Outcome State Fault Refusal :=
  .next ({ s with encNsym := 0, encNbit := 0 }.setSeq .encFetch)

/-- R161 and R162: the core step at ENC_FETCH. -/
def encFetchStep (s : State) : State :=
  match s.takeSymIn with
  | none => s
  | some (.fin, s') => s'.setSeq (.encClose 0)
  | some (.sym c, s') =>
    if s'.lenAt c = 0 then s'.raise (.noCode c)
    else s'.setSeq (.encBit c ((s'.lenAt c).toNat - 1))

/-- R163: the core step at ENC_BIT(s, j). -/
def encBitStep (c : Sym) (j : Nat) (s : State) : State :=
  if s.bitOutReady then
    let s' := { s.putBitOut (.bit (codeBit (s.codeAt c) j)) with encNbit := s.encNbit + 1 }
    match j with
    | 0 => { s' with encNsym := s'.encNsym + 1 }.setSeq .encFetch
    | j' + 1 => s'.setSeq (.encBit c j')
  else s

/-- R164: the core step at ENC_CLOSE(e). -/
def encCloseStep (e : ErrCode) (s : State) : State :=
  if s.bitOutReady then (s.putBitOut .close).complete e else s

end Sys2Proof.Machine
end

