-- ==== Sys2Proof/Machine/TableAccess.lean ====
section
/-! DEFINITION. NOP, CLRF, WRF, RDF, RDCODE and RDNODE (spec/40_table_access.md): each is its one core step from EXEC. -/

namespace Sys2Proof.Machine

/-- R101. -/
def execNop (s : State) : Host.Outcome State Fault Refusal := .next (s.complete 0)

/-- R102: every FREQ entry becomes 0. -/
def execClrf (s : State) : Host.Outcome State Fault Refusal := .next ({ s with freq := [] }.complete 0)

/-- R103: the count is the latched LDATA. -/
def execWrf (sym : Sym) (s : State) : Host.Outcome State Fault Refusal := .next ((s.setFreq sym s.ldata).complete 0)

/-- R104. -/
def execRdf (sym : Sym) (s : State) : Host.Outcome State Fault Refusal :=
  .next ((s.setRes (s.freqAt sym) 0 0 0).complete 0)

/-- R105, with R85's check of WIDX. -/
def execRdcode (sym : Sym) (widx : BitVec 8) (s : State) : Host.Outcome State Fault Refusal :=
  if 7 < widx.toNat then .next (s.raise .range)
  else .next ((s.setRes ((s.lenAt sym).setWidth 32) (codeWord (s.codeAt sym) widx.toNat) 0 0).complete 0)

/-- R106's result words: RES0 has KIND in bit 31 and the symbol or the left child, RES1 the right child, RES2 and RES3
the weight. -/
def State.setResNode (n : Node) (s : State) : State :=
  match n with
  | .leaf sym w => s.setRes (sym.setWidth 32) 0 (w.extractLsb' 0 32) ((w.extractLsb' 32 8).setWidth 32)
  | .internal l r w =>
    s.setRes (0x80000000 ||| BitVec.ofNat 32 l.val) (BitVec.ofNat 32 r.val) (w.extractLsb' 0 32)
      ((w.extractLsb' 32 8).setWidth 32)

/-- R106, with R85's check of NIDX against NODE_COUNT. -/
def execRdnode (nidx : BitVec 9) (s : State) : Host.Outcome State Fault Refusal :=
  if s.nodeCount ≤ nidx.toNat then .next (s.raise .range)
  else .next ((s.setResNode (s.nodeAt (nodeIx nidx.toNat))).complete 0)

end Sys2Proof.Machine
end

