-- ==== Sys2Proof/Machine/TreeBuilder.lean ====
section
/-! DEFINITION. BUILD (spec/41_tree_builder.md). The tie oracle is a parameter `sel` of every definition but `execBuild`,
which gives it the free value `Config.tieSel` (log 3): a statement for every `sel` is one "under every sequence of tie
draws" (R126). -/

namespace Sys2Proof.Machine

/-- BUILD's working state within its one core step (R39, R122): the arena, `next` of R123, the queue Q in rising index
order, and the count of draws made. -/
structure Forest where
  node : Table Node
  next : Nat
  queue : List NodeIx
  draws : Nat
  deriving DecidableEq, Repr

/-- The 256 symbols, ascending. -/
def allSyms : List Sym := (List.range 256).map (BitVec.ofNat 8)

/-- `syms` of R121: the symbols with an entry in FREQ, ascending. -/
def presentSyms (freq : Table Word) : List Sym := allSyms.filter (fun c => tableGet 0 freq c.toNat ≠ 0)

/-- R121: the leaves, from index `k` on: NODE[k] <- Leaf(sym, zext_40(FREQ[sym])). -/
def seedLeaves (freq : Table Word) : List Sym → Nat → Table Node → Table Node
  | [], _, node => node
  | c :: cs, k, node =>
    seedLeaves freq cs (k + 1)
      (tableSet blankNode node k (.leaf c ((tableGet 0 freq c.toNat).setWidth 40)))

/-- W(i) in an arena. -/
def weightAt (node : Table Node) (i : NodeIx) : Weight := (tableGet blankNode node i.val).weight

/-- The smaller of two weights. -/
def lighter (a b : Weight) : Weight := if a ≤ b then a else b

/-- min of W over the indices `i :: q` (R122). -/
def minWeight (node : Table Node) (i : NodeIx) : List NodeIx → Weight
  | [] => weightAt node i
  | j :: q => lighter (weightAt node i) (minWeight node j q)

/-- The tied minima C of a queue (R122), in rising index order. -/
def tiedMinima (node : Table Node) : List NodeIx → List NodeIx
  | [] => []
  | i :: q =>
    let m := minWeight node i q
    (i :: q).filter (fun j => weightAt node j = m)

/-- `draw tieSel(C)`: no choice where C has one element, else the element at position `d mod |C|` for the drawn `d`
(R122). C is never empty where BUILD draws. -/
def drawFrom (d : Nat) : List NodeIx → NodeIx
  | [] => 0
  | [a] => a
  | a :: b :: c => (a :: b :: c).getD (d % (c.length + 2)) a

/-- R122: remove one index of minimum weight from the queue. Each dequeue makes a fresh draw. -/
def Forest.dequeue (sel : Nat → Nat) (f : Forest) : NodeIx × Forest :=
  let a := drawFrom (sel f.draws) (tiedMinima f.node f.queue)
  (a, { f with queue := f.queue.erase a, draws := f.draws + 1 })

/-- R123, one turn of the merge loop: the first removed becomes the left child, the second the right. -/
def Forest.merge (sel : Nat → Nat) (f : Forest) : Forest :=
  let (a, f1) := f.dequeue sel
  let (b, f2) := f1.dequeue sel
  { node := tableSet blankNode f2.node f2.next (.internal a b (weightAt f2.node a + weightAt f2.node b))
    next := f2.next + 1
    queue := f2.queue ++ [nodeIx f2.next]
    draws := f2.draws }

/-- R123: `while |Q| >= 2`. Every turn shortens the queue by one, so |Q| turns are enough. -/
def Forest.mergeLoop (sel : Nat → Nat) : Nat → Forest → Forest
  | 0, f => f
  | k + 1, f =>
    match f.queue with
    | _ :: _ :: _ => Forest.mergeLoop sel k (f.merge sel)
    | _ => f

/-- R121 and R122: the forest BUILD starts from. -/
def seedForest (freq : Table Word) (node : Table Node) (draws : Nat) : Forest :=
  let syms := presentSyms freq
  { node := seedLeaves freq syms 0 node
    next := syms.length
    queue := (List.range syms.length).map nodeIx
    draws := draws }

/-- R121 to R124 but for the completion, for the tie oracle `sel`. For an empty table no node is written and ROOT is 0;
otherwise ROOT is the one element left in the queue. -/
def State.buildTree (sel : Nat → Nat) (s : State) : State :=
  let n := (presentSyms s.freq).length
  let f := Forest.mergeLoop sel n (seedForest s.freq s.node s.draws)
  { s with
    len := [], code := [], codesValid := false,
    node := f.node, treeSize := Fin.ofNat 257 n, root := f.queue.headD 0, draws := f.draws }

/-- R120. -/
def execBuild (s : State) : Host.Outcome State Fault Refusal := .next ((s.buildTree Config.tieSel).complete 0)

end Sys2Proof.Machine
end

