-- ==== Sys2Proof/Machine/Dispatch.lean ====
section
/-! DEFINITION. R100 of spec/40_table_access.md: the core step at EXEC for a well-formed command word, one arm per
constructor of Instr. -/

namespace Sys2Proof.Machine

def exec (i : Instr) (s : State) : Host.Outcome State Fault Refusal :=
  match i with
  | .nop => Sys2Proof.Machine.execNop s
  | .clrf => Sys2Proof.Machine.execClrf s
  | .wrf sym => Sys2Proof.Machine.execWrf sym s
  | .rdf sym => Sys2Proof.Machine.execRdf sym s
  | .build => Sys2Proof.Machine.execBuild s
  | .genc => Sys2Proof.Machine.execGenc s
  | .enc => Sys2Proof.Machine.execEnc s
  | .dec => Sys2Proof.Machine.execDec s
  | .rdcode sym widx => Sys2Proof.Machine.execRdcode sym widx s
  | .rdnode nidx => Sys2Proof.Machine.execRdnode nidx s

end Sys2Proof.Machine
end

