-- ==== Sys2Proof/Machine/Sequencer.lean ====
section
/-! DEFINITION. The core agent: its next step from each sequencer state (R37 of spec/10_state.md), and when that step is
enabled (R42, R43). -/

namespace Sys2Proof.Machine

/-- R100: the core step at EXEC decodes the latched word; an illegal word raises E_ILLEGAL (R83, R84). -/
def execStep (s : State) : Host.Outcome State Fault Refusal :=
  match decode s.lcmd with
  | none => .next (s.raise .illegal)
  | some i => exec i s

/-- One turn of the core. It steps only while BUSY = 1 (R21); idle or held, its turn changes nothing (log 6). -/
def coreStep (s : State) : Host.Outcome State Fault Refusal :=
  match s.seq with
  | .idle => .next s
  | .exec => execStep s
  | .encFetch => .next (encFetchStep s)
  | .encBit c j => .next (encBitStep c j s)
  | .encClose e => .next (encCloseStep e s)
  | .decFetch => decFetchStep s
  | .decEmit sym => .next (decEmitStep sym s)
  | .decClose => .next (decCloseStep s)

/-- The core has an enabled step: it is busy and not held (R21, R42, R43, R100). -/
def coreEnabled (s : State) : Bool :=
  match s.seq with
  | .idle => false
  | .exec => true
  | .encFetch => !s.qSymIn.isEmpty
  | .encBit _ _ => s.bitOutReady
  | .encClose _ => s.bitOutReady
  | .decFetch => !s.qBitIn.isEmpty
  | .decEmit _ => s.symOutReady
  | .decClose => s.symOutReady

end Sys2Proof.Machine
end

