-- ==== Sys2Proof/Machine/Step.lean ====
section
/-! DEFINITION. One step of the whole machine, and the placing of a command for the core's next step. -/

namespace Sys2Proof.Machine

/-- One atomic step (R69 of spec/20_memory.md). The head of `sched` says which agent moves; every interleaving of R209 is
some `sched`. Once it has run out, the core moves whenever it has an enabled step and the host otherwise (log 1). -/
def step (s : State) : Host.Outcome State Fault Refusal :=
  match s.sched with
  | .core :: rest => coreStep { s with sched := rest }
  | .host :: rest => .next (hostStep { s with sched := rest })
  | [] => if coreEnabled s then coreStep s else .next (hostStep s)

/-- The word `w` accepted as R203 says, with the core to move next: the very next step runs it (log 11). -/
def State.withFetchWord (s : State) (nbits w : Nat) : State :=
  { s.accept (BitVec.ofNat 32 (w % 2 ^ nbits)) with sched := .core :: s.sched }

end Sys2Proof.Machine
end

