-- ==== Sys2Proof/Safety.lean ====
section
/-! DEFINITION. The vocabulary of the claims: the tree BUILD leaves (R126 of spec/41_tree_builder.md), the invariant every
step keeps, runs of the core, what the encoder and the decoder compute on whole streams, and the groups of state that
frames speak of. -/

namespace Sys2Proof.Safety

open Sys2Proof.Machine

/-- `i` is a child of the internal node `j`. -/
def ChildOf (node : Table Node) (i j : Nat) : Prop :=
  ∃ l r w, tableGet blankNode node j = .internal l r w ∧ (l.val = i ∨ r.val = i)

/-- The tree of R34 and R126: leaves at 0..size-1 in ascending symbol order, internal nodes from there up to the root at
2*size-2, each heavier than its children by exact addition (R6) and above both, and every other node a child of exactly
one internal node. -/
structure TreeWf (size : Nat) (root : NodeIx) (node : Table Node) : Prop where
  size_le : size ≤ 256
  root_eq : root.val = 2 * size - 2
  leaves : ∀ i < size, ∃ c w, tableGet blankNode node i = .leaf c w
  ascending : ∀ i j c d v w, i < j → j < size → tableGet blankNode node i = .leaf c v →
    tableGet blankNode node j = .leaf d w → c.toNat < d.toNat
  internals : ∀ j, size ≤ j → j < 2 * size - 1 → ∃ l r w, tableGet blankNode node j = .internal l r w ∧
    l.val < j ∧ r.val < j ∧ l ≠ r ∧ w.toNat = (weightAt node l).toNat + (weightAt node r).toNat ∧
    (weightAt node l).toNat ≤ (weightAt node r).toNat
  one_parent : ∀ i < 2 * size - 2, ∃! j, size ≤ j ∧ j < 2 * size - 1 ∧ ChildOf node i j

/-- What each sequencer state presupposes (R161, R163, R164, R180, R182, R183). -/
def SeqWf (s : State) : Prop :=
  match s.seq with
  | .idle => True
  | .exec => True
  | .encFetch => decode s.lcmd = some .enc
  | .encBit c j => decode s.lcmd = some .enc ∧ j < (s.lenAt c).toNat
  | .encClose e => decode s.lcmd = some .enc ∧ (e = 0 ∨ e = 3)
  | .decFetch => decode s.lcmd = some .dec ∧ 1 ≤ s.treeSize.val ∧ (s.treeSize.val = 1 → s.decPtr = s.root) ∧
      (2 ≤ s.treeSize.val → s.treeSize.val ≤ s.decPtr.val ∧ s.decPtr.val < s.nodeCount)
  | .decEmit _ => decode s.lcmd = some .dec ∧ 1 ≤ s.treeSize.val ∧ s.decPtr = s.root
  | .decClose => decode s.lcmd = some .dec

/-- The invariant of the machine. -/
structure Inv (s : State) : Prop where
  /-- The tables are in canonical form (log 14). -/
  freq_wf : tableWf 0 256 s.freq
  node_wf : tableWf blankNode 511 s.node
  len_wf : tableWf 0 256 s.len
  code_wf : tableWf 0 256 s.code
  /-- The tree is one that BUILD leaves, or absent (R34, R126). -/
  tree_wf : TreeWf s.treeSize.val s.root s.node
  /-- CODES_VALID: the code table is that of the current tree, and it is empty otherwise (R36, R121, R143). -/
  codes_valid : s.codesValid = true → genTable s.treeSize.val s.root s.node = .ok { len := s.len, code := s.code }
  codes_invalid : s.codesValid = false → s.len = [] ∧ s.code = []
  /-- R35: CODE[s] < 2^LEN[s]. -/
  code_fits : ∀ c, (s.codeAt c).toNat < 2 ^ (s.lenAt c).toNat
  /-- R200: ERRCODE 4 to 15 is never produced. -/
  errcode_le : s.errcode.toNat ≤ 3
  /-- R29: ERRINFO bits [31:8] are 0. -/
  errinfo_lt : s.errinfo.toNat < 256
  /-- R25: ERRCODE is 0 while a command runs. -/
  errcode_busy : s.busy = true → s.errcode = 0
  /-- R203, R205: CMD reads back the running command word. -/
  cmd_latched : s.busy = true → s.lcmd = s.cmd
  seq_wf : SeqWf s

/-- `k` turns of the core, with no host step between them. -/
def coreRun : Nat → State → Host.Outcome State Fault Refusal
  | 0, s => .next s
  | k + 1, s =>
    match coreStep s with
    | .next t => coreRun k t
    | .fault e => .fault e
    | .refused r => .refused r

/-- BIT_OUT's consumer has space for `n` more tokens (R43). -/
def BitOutRoom (s : State) (n : Nat) : Prop := ∀ c, s.outCap = some c → s.rBitOut.length + n ≤ c

/-- SYM_OUT's consumer has space for `n` more tokens (R43). -/
def SymOutRoom (s : State) (n : Nat) : Prop := ∀ c, s.outCap = some c → s.rSymOut.length + n ≤ c

/-- A codeword as the bit string of R11, first path step (most significant bit) first. -/
def codewordBits (l : Nat) (c : CodeBits) : List Bool := (List.range l).reverse.map (codeBit c)

/-- The bits of one symbol's codeword in the current code table. -/
def symBits (s : State) (c : Sym) : List Bool := codewordBits (s.lenAt c).toNat (s.codeAt c)

/-- The bits of a symbol string in the current code table, in stream order (R163). -/
def streamBits (s : State) (syms : List Sym) : List Bool := syms.flatMap (symBits s)

/-- The sum of the codeword lengths of a symbol string (R166). -/
def streamLen (s : State) (syms : List Sym) : Nat := (syms.map (fun c => (s.lenAt c).toNat)).sum

/-- The node a bit string leads to from `i`, first bit first; none if it would leave a leaf. -/
def pathFrom (node : Table Node) : NodeIx → List Bool → Option NodeIx
  | i, [] => some i
  | i, b :: bs =>
    match tableGet blankNode node i.val with
    | .leaf _ _ => none
    | .internal l r _ => pathFrom node (if b then r else l) bs

/-- R187's decoder as the source writes it, on a tree whose root is internal: at an internal node it consumes a bit; at a
leaf it emits that leaf's symbol, goes back to the root and consumes none; and after the last bit it flushes a leaf the
pointer stands on. The first argument bounds the turns of its loop, two for each bit. -/
def sourceLoop (node : Table Node) (root : NodeIx) : Nat → NodeIx → List Bool → List Sym
  | 0, _, _ => []
  | k + 1, p, bits =>
    match bits, tableGet blankNode node p.val with
    | [], .leaf c _ => [c]
    | [], .internal _ _ _ => []
    | _ :: _, .leaf c _ => c :: sourceLoop node root k root bits
    | b :: bs, .internal l r _ => sourceLoop node root k (if b then r else l) bs

/-- Where the pointer stands after a bit string, going back to the root on each leaf (R183). -/
def pointerAfter (node : Table Node) (root : NodeIx) : NodeIx → List Bool → NodeIx
  | p, [] => p
  | p, b :: bs =>
    match tableGet blankNode node p.val with
    | .leaf _ _ => p
    | .internal l r _ =>
      match tableGet blankNode node (if b then r else l).val with
      | .leaf _ _ => pointerAfter node root root bs
      | .internal _ _ _ => pointerAfter node root (if b then r else l) bs

/-- The number of bits ENC emits for a stream whose counts are FREQ: sum over the symbols of FREQ * LEN (R127). -/
def weightedLength (s : State) : Nat := (allSyms.map (fun c => (s.freqAt c).toNat * (s.lenAt c).toNat)).sum

/-- The number of BIT tokens in an output buffer. -/
def bitTokens (r : List OutBitToken) : Nat := r.countP (fun t => decide (t ≠ .close))

/-- The number of SYM tokens in an output buffer. -/
def symTokens (r : List SymToken) : Nat := r.countP (fun t => decide (t ≠ .fin))

/-- The number of BIT tokens the host still offers. -/
def offeredBits (q : List BitToken) : Nat := q.countP (fun t => decide (t ≠ .fin))

/-- The core's next step emits the last bit of a codeword (R163). -/
def lastBitNext (s : State) : Bool :=
  match s.seq with
  | .encBit _ 0 => s.bitOutReady
  | _ => false

/-- An outcome with `f` applied to the next state, if there is one. -/
def mapNext (f : State → State) : Host.Outcome State Fault Refusal → Host.Outcome State Fault Refusal
  | .next t => .next (f t)
  | .fault e => .fault e
  | .refused r => .refused r

/-- The sequencer is in a step of an ENC run after its start (R161 to R164). -/
def EncRunning (s : State) : Prop :=
  s.seq = .encFetch ∨ (∃ c j, s.seq = .encBit c j) ∨ ∃ e, s.seq = .encClose e

/-- The sequencer is in a step of a DEC run after its start (R182 to R186). -/
def DecRunning (s : State) : Prop := s.seq = .decFetch ∨ (∃ c, s.seq = .decEmit c) ∨ s.seq = .decClose

/-- The core is about to take the EXEC step of the command `i` (R100). -/
def AboutToRun (i : Instr) (s : State) : Prop := s.seq = .exec ∧ decode s.lcmd = some i

/-- FREQ is unchanged. -/
def SameFreq (s t : State) : Prop := t.freq = s.freq

/-- The tree is unchanged (R33). -/
def SameTree (s t : State) : Prop := t.treeSize = s.treeSize ∧ t.root = s.root ∧ t.node = s.node

/-- The code table is unchanged (R33). -/
def SameCodes (s t : State) : Prop := t.len = s.len ∧ t.code = s.code ∧ t.codesValid = s.codesValid

/-- RES0 to RES3 are unchanged. -/
def SameRes (s t : State) : Prop := t.res0 = s.res0 ∧ t.res1 = s.res1 ∧ t.res2 = s.res2 ∧ t.res3 = s.res3

/-- The encoder's counters are unchanged. -/
def SameEncCounters (s t : State) : Prop := t.encNsym = s.encNsym ∧ t.encNbit = s.encNbit

/-- The decoder's counters, DEC_PTR and DEC_MIDPATH are unchanged. -/
def SameDecoder (s t : State) : Prop :=
  t.decNbit = s.decNbit ∧ t.decNsym = s.decNsym ∧ t.decPtr = s.decPtr ∧ t.decMidpath = s.decMidpath

/-- The encoder's ports are unchanged. -/
def SameEncPorts (s t : State) : Prop := t.qSymIn = s.qSymIn ∧ t.rBitOut = s.rBitOut

/-- The decoder's ports are unchanged. -/
def SameDecPorts (s t : State) : Prop := t.qBitIn = s.qBitIn ∧ t.rSymOut = s.rSymOut

/-- The registers only the host writes, and the operand latch, are unchanged: no core step touches them (R24, R27, R38,
R205). -/
def SameCommand (s t : State) : Prop :=
  t.cmd = s.cmd ∧ t.data0 = s.data0 ∧ t.lcmd = s.lcmd ∧ t.ldata = s.ldata ∧ t.overrun = s.overrun

/-- The host, the schedule and OUT_CAP are unchanged. -/
def SameHost (s t : State) : Prop :=
  t.outCap = s.outCap ∧ t.program = s.program ∧ t.sched = s.sched ∧ t.rdata = s.rdata ∧ t.got = s.got

/-- `i` performs its whole command in the EXEC step (R100). -/
def SingleStep (i : Instr) : Prop := i ≠ .enc ∧ i ≠ .dec

/-- `i` is a command of spec/40_table_access.md. -/
def TableAccess (i : Instr) : Prop := SingleStep i ∧ i ≠ .build ∧ i ≠ .genc

/-- The host step about to be taken is a reset: RST_N, or a write of bit 0 = 1 to SRST (R230, R231). -/
def ResetNext (s : State) : Prop :=
  ∃ rest, s.program = .reset :: rest ∨ ∃ v, v.getLsbD 0 = true ∧ s.program = .wr .srst v :: rest

end Sys2Proof.Safety
end

