-- ==== Sys2Proof/Certificates/Slice0/Obligations.lean ====
section
/-! DEFINITION. The statements for the provers. "Table", "tree" and the frames' names are those of Sys2Proof/Safety.lean.
A conclusion of the form `t = { s with f := t.f, ... }` is a frame: every field of State that is not named is unchanged. -/

open Sys2Proof Sys2Proof.Machine Sys2Proof.Safety

/-! ### Encoding -/

/-- R80 to R82, R87: no field of a command is lost or moved by encoding it, whatever its operands, and the table's
numbering of the word decodes to it too. -/
def Obligations.EncodeThenDecode : Prop :=
  ∀ i : Instr, decode (encode i) = some i ∧ decodeTableWord 32 (encode i).toNat = some i

/-- R82, R87: a word that decodes is the one word of its command, so the rows do not overlap. -/
def Obligations.DecodeThenEncode : Prop :=
  ∀ (w : Word) (i : Instr), decode w = some i → encode i = w

/-- R83, R84: the decoder refuses exactly the words with a reserved OP or with a 1 among their OP's must-be-zero bits. -/
def Obligations.DecodeRefusesExactlyIllegalWords : Prop :=
  ∀ w : Word, decode w = none ↔
    (10 ≤ (w.extractLsb' 28 4).toNat ∨ (CommandWord.ofWord w).zerosHold = false)

/-- The words of R88, written out from R80 to R82; 0x8000_0800 decodes, and then fails the range check of R85. -/
def Obligations.WorkedEncodings : Prop :=
  decode 0x20000041 = some (.wrf 0x41) ∧
  decode 0x80000041 = some (.rdcode 0x41 0) ∧ decode 0x80000741 = some (.rdcode 0x41 7) ∧
  decode 0x90000006 = some (.rdnode 6) ∧ decode 0x900001FE = some (.rdnode 510) ∧
  decode 0x40000001 = none ∧ decode 0xA0000000 = none ∧
  decode 0x80000800 = some (.rdcode 0 8) ∧
  ∀ s : State, exec (.rdcode 0 8) s = .next { s with errcode := 2, seq := .idle }

/-! ### The step, the command lifecycle and errors -/

/-- R21, R69, R100: when the latched word decodes to `i` and it is the core's turn (by the schedule, or because the
schedule has run out), the machine's step is `exec i`, with the schedule's head consumed; and the command that
`withFetchWord` places is run by the very next step. The schedule and `withFetchWord` are the model's choice (logs 1 and
11). -/
def Obligations.StepRunsDecodedInstruction : Prop :=
  (∀ (s : State) (i : Instr), AboutToRun i s →
    (∀ rest, s.sched = .core :: rest → step s = exec i { s with sched := rest }) ∧
    (s.sched = [] → step s = exec i s)) ∧
  ∀ (s : State) (nbits w : Nat) (i : Instr), decodeTableWord nbits w = some i →
    step (s.withFetchWord nbits w) = exec i (s.accept (BitVec.ofNat 32 (w % 2 ^ nbits)))

/-- R100: an accepted command starts with the EXEC step, which is always enabled; an illegal word completes with
E_ILLEGAL; a well-formed word runs its command, which is over in this one step unless it is ENC or DEC, whose run goes on. -/
def Obligations.ExecStepDispatch : Prop :=
  (∀ (s : State) (v : Word), s.seq = .idle → (s.memWrite 0x04 v).seq = .exec ∧ (s.memWrite 0x04 v).lcmd = v) ∧
  ∀ s : State, s.seq = .exec → coreEnabled s = true ∧
    (decode s.lcmd = none → coreStep s = .next { s with errcode := 1, seq := .idle }) ∧
    ∀ i, decode s.lcmd = some i → coreStep s = exec i s ∧
      ∀ t, exec i s = .next t → (SingleStep i → t.seq = .idle) ∧ (¬ SingleStep i → t.busy = true)

/-- R83, R84: an illegal word is accepted like any other (BUSY rises, CMD reads it back), and its first core step sets
ERRCODE = 1 and changes nothing else. -/
def Obligations.IllegalWordChangesOnlyErrcode : Prop :=
  ∀ (s : State) (w : Word), s.seq = .idle → (CommandWord.ofWord w).wellFormed = false →
    let a := s.memWrite 0x04 w
    a.memRead 0x04 = w ∧ (a.memRead 0x08).getLsbD 0 = true ∧
    coreStep a = .next { a with errcode := 1, seq := .idle }

/-- R208: reserved OP or a must-be-zero bit decides first (E_ILLEGAL), then the range check (E_RANGE); a word that passes
both raises neither in its EXEC step. -/
def Obligations.ErrorPriority : Prop :=
  ∀ (s t : State), s.seq = .exec → s.errcode = 0 → coreStep s = .next t →
    let illegal := (CommandWord.ofWord s.lcmd).opReserved = true ∨ (CommandWord.ofWord s.lcmd).zerosHold = false
    let outOfRange := (∃ c k, decode s.lcmd = some (.rdcode c k) ∧ 7 < k.toNat) ∨
      ∃ i, decode s.lcmd = some (.rdnode i) ∧ s.nodeCount ≤ i.toNat
    (illegal → t.errcode = 1) ∧ (¬ illegal → outOfRange → t.errcode = 2) ∧
    (¬ illegal → ¬ outOfRange → t.errcode = 0)

/-- R207: a command that is over in its EXEC step either completes with ERRCODE = 0, or with E_RANGE and no other change
than BUSY back to 0. -/
def Obligations.RangeErrorsArePrecise : Prop :=
  ∀ (i : Instr) (s t : State), SingleStep i → exec i s = .next t →
    t.errcode = 0 ∨ t = { s with errcode := 2, seq := .idle }

/-- R203, R205: a CMD write is accepted when `seq` is IDLE, with exactly R203's writes, and otherwise dropped with
OVERRUN set and nothing else changed. -/
def Obligations.CmdWriteAcceptsOrOverruns : Prop :=
  ∀ (s : State) (v : Word),
    (s.seq = .idle → s.memWrite 0x04 v =
      { s with cmd := v, lcmd := v, ldata := s.data0, errcode := 0, errinfo := 0, seq := .exec }) ∧
    (s.seq ≠ .idle → s.memWrite 0x04 v = { s with overrun := true })

/-- R205: a CMD write while a command runs is dropped and sets OVERRUN, and nothing else changes; and in every step of
the machine OVERRUN rises only so, and falls only by a write of 1 to STATUS[8] or a reset. -/
def Obligations.OverrunIsSticky : Prop :=
  (∀ (s : State) (v : Word), s.seq ≠ .idle → s.memWrite 0x04 v = { s with overrun := true }) ∧
  ∀ s t : State, step s = .next t →
    (s.overrun = false → t.overrun = true →
      s.busy = true ∧ ∃ v rest, s.program = .wr .cmd v :: rest) ∧
    (s.overrun = true → t.overrun = false →
      ResetNext s ∨ ∃ v rest, v.getLsbD 8 = true ∧ s.program = .wr .status v :: rest)

/-! ### The bus -/

/-- R22, R23, R45, R46: what a read of each of the 16 words returns. -/
def Obligations.BusReadMap : Prop :=
  ∀ s : State,
    s.memRead 0x00 = 0x48554646 ∧ s.memRead 0x04 = s.cmd ∧ s.memRead 0x08 = s.statusWord ∧
    s.memRead 0x0C = s.treeInfoWord ∧ s.memRead 0x10 = s.data0 ∧
    s.memRead 0x14 = s.res0 ∧ s.memRead 0x18 = s.res1 ∧ s.memRead 0x1C = s.res2 ∧ s.memRead 0x20 = s.res3 ∧
    s.memRead 0x24 = s.errinfo ∧ s.memRead 0x28 = 0 ∧
    s.memRead 0x2C = s.encNsym ∧ s.memRead 0x30 = s.encNbit ∧
    s.memRead 0x34 = s.decNbit ∧ s.memRead 0x38 = s.decNsym ∧ s.memRead 0x3C = 0

/-- R25: every field of STATUS at its bits, and a write changes nothing but OVERRUN, which a 1 in bit 8 clears. -/
def Obligations.StatusFields : Prop :=
  ∀ s : State,
    (let v := s.memRead 0x08
     (v.getLsbD 0 = true ↔ s.seq ≠ .idle) ∧
     (v.getLsbD 1 = true ↔ 1 ≤ s.treeSize.val) ∧
     v.getLsbD 2 = s.codesValid ∧
     (v.getLsbD 3 = true ↔ s.errcode ≠ 0) ∧
     v.extractLsb' 4 4 = s.errcode ∧
     v.getLsbD 8 = s.overrun ∧
     v.getLsbD 9 = s.decMidpath ∧
     (v.getLsbD 10 = true ↔ s.treeSize.val = 1) ∧
     v.extractLsb' 11 21 = 0) ∧
    ∀ v : Word, s.memWrite 0x08 v = { s with overrun := s.overrun && !v.getLsbD 8 }

/-- R26: every field of TREEINFO at its bits, its value 0 after reset, and no effect of a write. -/
def Obligations.TreeInfoFields : Prop :=
  (∀ s : State,
    (let v := s.memRead 0x0C
     (v.extractLsb' 0 9).toNat = s.treeSize.val ∧ v.extractLsb' 9 7 = 0 ∧
     (v.extractLsb' 16 9).toNat = s.root.val ∧ v.extractLsb' 25 7 = 0) ∧
    ∀ v : Word, s.memWrite 0x0C v = s) ∧
  ∀ s : State, s.blockReset.memRead 0x0C = 0

/-- R27, R63: a write to DATA0 changes DATA0 only, whatever BUSY is; a write to a read-only register or to the reserved
word changes nothing. -/
def Obligations.BusWriteEffects : Prop :=
  ∀ (s : State) (v : Word),
    s.memWrite 0x10 v = { s with data0 := v } ∧
    ∀ off : BitVec 6, off ∈ [0x00, 0x0C, 0x14, 0x18, 0x1C, 0x20, 0x24, 0x2C, 0x30, 0x34, 0x38, 0x3C] →
      s.memWrite off v = s

/-- R38, R73: what the running command does depends neither on a later write of DATA0 nor on a dropped write of CMD: the
core's step commutes with both. -/
def Obligations.RunningCommandIgnoresLaterWrites : Prop :=
  ∀ (s : State) (v : Word),
    coreStep (s.memWrite 0x10 v) = mapNext (fun t => { t with data0 := v }) (coreStep s) ∧
    (s.seq ≠ .idle → coreStep (s.memWrite 0x04 v) = mapNext (fun t => { t with overrun := true }) (coreStep s))

/-- R20, R42, R43, R65, R89: one step of each host operation but RESET: a bus write and a bus read are what the register
map says, and a read gives its data to the host and changes nothing in the block; POLL reads STATUS, and ends once BUSY
reads 0; PUTSYM and PUTBIT append; GET removes the head, and changes nothing while the port is empty; FLUSH withdraws
every untaken token. That a waiting POLL or GET keeps its place, and the fields that hold what the host
read and got, are the model's choice (logs 7 and 8). -/
def Obligations.HostOperations : Prop :=
  ∀ s : State,
    (∀ r v, hostOp (.wr r v) s = s.memWrite r.offset v) ∧
    (∀ r, hostOp (.rd r) s = { s with rdata := s.memRead r.offset }) ∧
    hostOp .poll s = { s with rdata := s.memRead 0x08 } ∧
    hostOpDone .poll s = !(s.memRead 0x08).getLsbD 0 ∧
    (∀ t, hostOp (.putSym t) s = { s with qSymIn := s.qSymIn ++ [t] }) ∧
    (∀ t, hostOp (.putBit t) s = { s with qBitIn := s.qBitIn ++ [t] }) ∧
    (s.rBitOut = [] → hostOp (.get .bitOut) s = s) ∧
    (∀ t r, s.rBitOut = t :: r → hostOp (.get .bitOut) s = { s with rBitOut := r, got := some (.bitOut t) }) ∧
    (s.rSymOut = [] → hostOp (.get .symOut) s = s) ∧
    (∀ t r, s.rSymOut = t :: r → hostOp (.get .symOut) s = { s with rSymOut := r, got := some (.symOut t) }) ∧
    hostOp (.flush .symIn) s = { s with qSymIn := [] } ∧
    hostOp (.flush .bitIn) s = { s with qBitIn := [] }

/-! ### Reset -/

/-- R230, R233: the value of every piece of block state after a hardware reset, from any state, but for NODE, which R230
leaves unspecified; and the host's side of the ports is as before. The value State.reset gives to NODE is the model's
choice (log 4), and nothing is said of it here. -/
def Obligations.ResetValues : Prop :=
  ∀ s : State,
    let t := hostOp .reset s
    t.seq = .idle ∧ t.cmd = 0 ∧ t.data0 = 0 ∧ t.res0 = 0 ∧ t.res1 = 0 ∧ t.res2 = 0 ∧ t.res3 = 0 ∧ t.errinfo = 0 ∧
    t.errcode = 0 ∧ t.overrun = false ∧ t.decMidpath = false ∧ t.codesValid = false ∧
    t.encNsym = 0 ∧ t.encNbit = 0 ∧ t.decNbit = 0 ∧ t.decNsym = 0 ∧ (∀ c, t.freqAt c = 0) ∧
    t.treeSize = 0 ∧ t.root = 0 ∧ (∀ c, t.lenAt c = 0 ∧ t.codeAt c = 0) ∧
    t.nodeCount = 0 ∧ t.lcmd = 0 ∧ t.ldata = 0 ∧ t.decPtr = 0 ∧ t.memRead 0x00 = 0x48554646 ∧ t.memRead 0x08 = 0 ∧ t.memRead 0x0C = 0 ∧
    t.qSymIn = s.qSymIn ∧ t.qBitIn = s.qBitIn ∧ t.rBitOut = s.rBitOut ∧ t.rSymOut = s.rSymOut

/-- R231, R232: a write of bit 0 = 1 to SRST is the hardware reset, whatever BUSY is: a running command is gone, no CLOSE
and no END is put, and ERRCODE is 0; a write of bit 0 = 0 does nothing, and SRST reads 0 (R45). -/
def Obligations.SoftResetIsReset : Prop :=
  ∀ (s : State) (v : Word),
    (v.getLsbD 0 = true → s.memWrite 0x28 v = hostOp .reset s ∧ (s.memWrite 0x28 v).seq = .idle ∧
      (s.memWrite 0x28 v).errcode = 0 ∧ (s.memWrite 0x28 v).rBitOut = s.rBitOut ∧
      (s.memWrite 0x28 v).rSymOut = s.rSymOut ∧ (s.memWrite 0x28 v).qSymIn = s.qSymIn ∧
      (s.memWrite 0x28 v).qBitIn = s.qBitIn) ∧
    (v.getLsbD 0 = false → s.memWrite 0x28 v = s) ∧ s.memRead 0x28 = 0

/-! ### The invariant -/

/-- The state right after reset meets the invariant. The values State.reset has where the spec gives none are the model's
choice (logs 2, 4 and 5), and so is the canonical form of the tables (log 14). -/
def Obligations.InvariantHoldsAtReset : Prop := Inv State.reset

/-- Every step of the machine, of either agent, keeps the invariant: tables in the canonical form the model chose (log
14), a tree as R34 and R126 have it, a code table that is the tree's or empty (R36), CODE < 2^LEN (R35), no reserved
ERRCODE (R200), ERRINFO below 256 (R29), ERRCODE 0 and CMD latched while busy (R25, R38), and what each sequencer state
presupposes. -/
def Obligations.StepKeepsInvariant : Prop := ∀ s t : State, Inv s → step s = .next t → Inv t

/-- R7, R34, R183: where the invariant holds, the machine never stops: no fault, no refusal. -/
def Obligations.InvariantStatesNeverStop : Prop := ∀ s : State, Inv s → ∃ t, step s = .next t

/-! ### Table access -/

/-- R101. -/
def Obligations.NopResult : Prop :=
  (∀ w : Word, decode w = some .nop ↔ w = 0x00000000) ∧
  ∀ s : State, exec .nop s = .next { s with errcode := 0, seq := .idle }

/-- R102. -/
def Obligations.ClrfResult : Prop :=
  (∀ w : Word, decode w = some .clrf ↔ w = 0x10000000) ∧
  ∀ s : State, ∃ t, exec .clrf s = .next t ∧ (∀ c, t.freqAt c = 0) ∧
    t = { s with freq := t.freq, errcode := 0, seq := .idle }

/-- R103: every symbol and every count, 0 among them. -/
def Obligations.WrfResult : Prop :=
  (∀ (w : Word) (c : Sym), decode w = some (.wrf c) ↔ w = 0x20000000 ||| c.setWidth 32) ∧
  ∀ (s : State) (c : Sym), ∃ t, exec (.wrf c) s = .next t ∧ t.freqAt c = s.ldata ∧
    (∀ b, b ≠ c → t.freqAt b = s.freqAt b) ∧ t = { s with freq := t.freq, errcode := 0, seq := .idle }

/-- R104. -/
def Obligations.RdfResult : Prop :=
  (∀ (w : Word) (c : Sym), decode w = some (.rdf c) ↔ w = 0x30000000 ||| c.setWidth 32) ∧
  ∀ (s : State) (c : Sym), exec (.rdf c) s =
    .next { s with res0 := s.freqAt c, res1 := 0, res2 := 0, res3 := 0, errcode := 0, seq := .idle }

/-- R105: the result of a word index in range, E_RANGE and nothing else changed for one out of range, and 0 for a word
that lies wholly above the codeword's length. -/
def Obligations.RdcodeResult : Prop :=
  (∀ (w : Word) (c : Sym) (k : BitVec 8), decode w = some (.rdcode c k) ↔
    w = 0x80000000 ||| k.setWidth 32 <<< 8 ||| c.setWidth 32) ∧
  ∀ (s : State) (c : Sym) (k : BitVec 8),
    (7 < k.toNat → exec (.rdcode c k) s = .next { s with errcode := 2, seq := .idle }) ∧
    (k.toNat ≤ 7 → exec (.rdcode c k) s =
      .next { s with res0 := BitVec.ofNat 32 (s.lenAt c).toNat,
                     res1 := BitVec.ofNat 32 ((s.codeAt c).toNat / 2 ^ (32 * k.toNat)),
                     res2 := 0, res3 := 0, errcode := 0, seq := .idle }) ∧
    (k.toNat ≤ 7 → (s.codeAt c).toNat < 2 ^ (s.lenAt c).toNat → (s.lenAt c).toNat ≤ 32 * k.toNat →
      ∃ t, exec (.rdcode c k) s = .next t ∧ t.res1 = 0)

/-- R106: both node forms, and E_RANGE and nothing else changed at and above NODE_COUNT. -/
def Obligations.RdnodeResult : Prop :=
  (∀ (w : Word) (i : BitVec 9), decode w = some (.rdnode i) ↔ w = 0x90000000 ||| i.setWidth 32) ∧
  ∀ (s : State) (i : BitVec 9),
    (s.nodeCount ≤ i.toNat → exec (.rdnode i) s = .next { s with errcode := 2, seq := .idle }) ∧
    ∀ j : NodeIx, j.val = i.toNat → j.val < s.nodeCount →
      (∀ c w, s.nodeAt j = .leaf c w → exec (.rdnode i) s =
        .next { s with res0 := BitVec.ofNat 32 c.toNat, res1 := 0, res2 := BitVec.ofNat 32 w.toNat,
                       res3 := BitVec.ofNat 32 (w.toNat / 2 ^ 32), errcode := 0, seq := .idle }) ∧
      (∀ l r w, s.nodeAt j = .internal l r w → exec (.rdnode i) s =
        .next { s with res0 := BitVec.ofNat 32 (2 ^ 31 + l.val), res1 := BitVec.ofNat 32 r.val,
                       res2 := BitVec.ofNat 32 w.toNat, res3 := BitVec.ofNat 32 (w.toNat / 2 ^ 32),
                       errcode := 0, seq := .idle })

/-- R107, and the "Written" lists of R101 to R106: NOP, CLRF, WRF, RDF, RDCODE and RDNODE complete in their EXEC step from
every state, and touch no port, no counter, not DEC_PTR, the tree or the code table; FREQ changes only by CLRF and WRF,
RES0 to RES3 only by the three reads. -/
def Obligations.TableAccessFrame : Prop :=
  ∀ (i : Instr) (s : State), TableAccess i → ∃ t, exec i s = .next t ∧ t.seq = .idle ∧
    SameTree s t ∧ SameCodes s t ∧ SameEncCounters s t ∧ SameDecoder s t ∧ SameEncPorts s t ∧ SameDecPorts s t ∧
    SameCommand s t ∧ SameHost s t ∧ t.errinfo = s.errinfo ∧ t.draws = s.draws ∧
    (i ≠ .clrf → (∀ c, i ≠ .wrf c) → SameFreq s t) ∧
    ((∀ c, i ≠ .rdf c) → (∀ c k, i ≠ .rdcode c k) → (∀ j, i ≠ .rdnode j) → SameRes s t)

/-! ### BUILD -/

/-- R120, R121: BUILD completes from every state with ERRCODE = 0; it clears the code table, counts the symbols with a
non-zero FREQ and seeds a leaf for each of them, in ascending order; and it changes nothing that R120 does not list as
written. Of the NODE entries at or above NODE_COUNT, which R32 leaves unspecified, nothing is said. -/
def Obligations.BuildCompletes : Prop :=
  (∀ w : Word, decode w = some .build ↔ w = 0x40000000) ∧
  ∀ s : State, ∃ t, exec .build s = .next t ∧ t = (s.buildTree Config.tieSel).complete 0 ∧
    t.seq = .idle ∧ t.errcode = 0 ∧ t.codesValid = false ∧ (∀ c, t.lenAt c = 0 ∧ t.codeAt c = 0) ∧
    (let syms := allSyms.filter (fun c => s.freqAt c ≠ 0)
     t.treeSize.val = syms.length ∧ (syms = [] → t.root.val = 0) ∧
     ∀ (k : NodeIx) (h : k.val < syms.length), t.nodeAt k = .leaf syms[k.val] ((s.freqAt syms[k.val]).setWidth 40)) ∧
    SameFreq s t ∧ SameRes s t ∧ SameEncCounters s t ∧ SameDecoder s t ∧ SameEncPorts s t ∧ SameDecPorts s t ∧
    SameCommand s t ∧ SameHost s t ∧ t.errinfo = s.errinfo

/-- R121 to R124 (with R6 and R126, which the spec derives from them): under every sequence of tie draws, a non-empty FREQ
gives a full binary tree whose leaves are exactly the symbols with a non-zero FREQ, each once and with its weight, whose
internal nodes lie above their children and weigh their exact sum, the lighter child left, and whose root weighs the sum
of FREQ; FREQ is unchanged. -/
def Obligations.BuildMakesHuffmanTree : Prop :=
  ∀ (sel : Nat → Nat) (s : State), (∃ c, s.freqAt c ≠ 0) →
    let t := s.buildTree sel
    TreeWf t.treeSize.val t.root t.node ∧
    (∀ c, s.freqAt c ≠ 0 → ∃ i : NodeIx, i.val < t.treeSize.val ∧ t.nodeAt i = .leaf c ((s.freqAt c).setWidth 40)) ∧
    (∀ i : NodeIx, i.val < t.treeSize.val → ∃ c, s.freqAt c ≠ 0 ∧ t.nodeAt i = .leaf c ((s.freqAt c).setWidth 40)) ∧
    (t.nodeAt t.root).weight.toNat = (allSyms.map (fun c => (s.freqAt c).toNat)).sum ∧
    t.freq = s.freq

/-- R121, R125: the empty table gives the absent tree and writes no node; a table of exactly one entry gives a single
leaf and makes no draw. -/
def Obligations.BuildOfEmptyAndSingletonTables : Prop :=
  ∀ (sel : Nat → Nat) (s : State),
    let t := s.buildTree sel
    ((∀ c, s.freqAt c = 0) → t.treeSize.val = 0 ∧ t.root.val = 0 ∧ t.node = s.node) ∧
    ∀ c, s.freqAt c ≠ 0 → (∀ b, b ≠ c → s.freqAt b = 0) →
      t.treeSize.val = 1 ∧ t.root.val = 0 ∧ t.nodeAt 0 = .leaf c ((s.freqAt c).setWidth 40) ∧ t.nodeCount = 1 ∧
      t.draws = s.draws

/-- R122: the queue starts as {0, ..., n-1}; a dequeue removes one index of minimum weight and makes a draw; and every
tied index is admitted: some oracle draws it. -/
def Obligations.DequeueTakesAnyTiedMinimum : Prop :=
  (∀ s : State, (seedForest s.freq s.node s.draws).queue.map (·.val) =
    List.range (allSyms.filter (fun c => s.freqAt c ≠ 0)).length) ∧
  (∀ (sel : Nat → Nat) (f : Forest), f.queue ≠ [] →
    (f.dequeue sel).1 ∈ f.queue ∧ (∀ i ∈ f.queue, weightAt f.node (f.dequeue sel).1 ≤ weightAt f.node i) ∧
    (f.dequeue sel).2 = { f with queue := f.queue.erase (f.dequeue sel).1, draws := f.draws + 1 }) ∧
  ∀ (f : Forest) (a : NodeIx), a ∈ f.queue → (∀ i ∈ f.queue, weightAt f.node a ≤ weightAt f.node i) →
    ∃ sel : Nat → Nat, (f.dequeue sel).1 = a

/-- R123: internal nodes are numbered from n on; the loop goes on exactly while the queue holds two indices or more; and
one turn of it: the first index removed is the left child, the second the right, the new node weighs
their sum and is the next in the arena and in the queue, and no other node changes. -/
def Obligations.MergeJoinsTwoLightest : Prop :=
  (∀ s : State, (seedForest s.freq s.node s.draws).next = (allSyms.filter (fun c => s.freqAt c ≠ 0)).length) ∧
  (∀ (sel : Nat → Nat) (k : Nat) (f : Forest),
    (2 ≤ f.queue.length → Forest.mergeLoop sel (k + 1) f = Forest.mergeLoop sel k (f.merge sel)) ∧
    (f.queue.length < 2 → Forest.mergeLoop sel k f = f)) ∧
  ∀ (sel : Nat → Nat) (f : Forest), 2 ≤ f.queue.length → f.next < 511 →
    ∃ a b, a ∈ f.queue ∧ (∀ i ∈ f.queue, weightAt f.node a ≤ weightAt f.node i) ∧
      b ∈ f.queue.erase a ∧ (∀ i ∈ f.queue.erase a, weightAt f.node b ≤ weightAt f.node i) ∧
      (f.merge sel).next = f.next + 1 ∧ (f.merge sel).draws = f.draws + 2 ∧
      (f.merge sel).queue.map (·.val) = ((f.queue.erase a).erase b).map (·.val) ++ [f.next] ∧
      tableGet blankNode (f.merge sel).node f.next = .internal a b (weightAt f.node a + weightAt f.node b) ∧
      ∀ j, j ≠ f.next → tableGet blankNode (f.merge sel).node j = tableGet blankNode f.node j

/-- R122, R123 (R128's case n = 2): where exactly two symbols have entries and their counts are equal, both trees are
admitted. -/
def Obligations.EqualPairAdmitsBothTrees : Prop :=
  ∀ (s : State) (c d : Sym), c.toNat < d.toNat → s.freqAt c ≠ 0 → s.freqAt d = s.freqAt c →
    (∀ b, b ≠ c → b ≠ d → s.freqAt b = 0) →
    let w := (s.freqAt c).setWidth 40 + (s.freqAt c).setWidth 40
    (∃ sel, (s.buildTree sel).root.val = 2 ∧ (s.buildTree sel).nodeAt 2 = .internal 0 1 w) ∧
    ∃ sel, (s.buildTree sel).root.val = 2 ∧ (s.buildTree sel).nodeAt 2 = .internal 1 0 w

/-- R127: the tree's weighted path length, and so the number of bits ENC emits for a stream whose counts are FREQ, is the
same under every two sequences of tie draws. The spec marks the fact as general knowledge and asks a model to prove it. -/
def Obligations.WeightedLengthIndependentOfTies : Prop :=
  ∀ (sel₁ sel₂ : Nat → Nat) (s t₁ t₂ : State),
    exec .genc (s.buildTree sel₁) = .next t₁ → exec .genc (s.buildTree sel₂) = .next t₂ →
    weightedLength t₁ = weightedLength t₂

/-- R127: the tree is optimal: on two or more symbols, the number of bits for a stream whose counts are FREQ is the least
that any codeword lengths allow that satisfy the Kraft inequality on the symbols with an entry, those of every full binary
tree among them. The spec marks the fact as general knowledge and asks a model to prove it. -/
def Obligations.HuffmanTreeIsOptimal : Prop :=
  ∀ (sel : Nat → Nat) (s t : State) (lens : Sym → Nat), exec .genc (s.buildTree sel) = .next t →
    let syms := allSyms.filter (fun c => s.freqAt c ≠ 0)
    2 ≤ syms.length → (syms.map (fun c => (1 / 2 : ℚ) ^ lens c)).sum ≤ 1 →
    weightedLength t ≤ (syms.map (fun c => (s.freqAt c).toNat * lens c)).sum

/-! ### GENC -/

/-- R140, R143: on every tree BUILD leaves, the absent and the singleton tree among them, GENC completes with
CODES_VALID = 1 and writes nothing but the code table. That the two tables are left in canonical form is the model's
choice of representation (log 14, DESIGN CHOICE). -/
def Obligations.GencCompletes : Prop :=
  (∀ w : Word, decode w = some .genc ↔ w = 0x50000000) ∧
  ∀ s : State, TreeWf s.treeSize.val s.root s.node → ∃ t, exec .genc s = .next t ∧
    t = { s with len := t.len, code := t.code, codesValid := true, errcode := 0, seq := .idle } ∧
    tableWf 0 256 t.len ∧ tableWf 0 256 t.code

/-- R142: the absent tree gives the empty code table; the singleton tree gives its symbol the codeword "1" and every other
symbol none. -/
def Obligations.GencOfAbsentAndSingletonTrees : Prop :=
  ∀ s : State,
    (s.treeSize.val = 0 → ∃ t, exec .genc s = .next t ∧ (∀ b, t.lenAt b = 0 ∧ t.codeAt b = 0) ∧
      t = { s with len := t.len, code := t.code, codesValid := true, errcode := 0, seq := .idle }) ∧
    ∀ c w, s.treeSize.val = 1 → s.nodeAt s.root = .leaf c w →
      ∃ t, exec .genc s = .next t ∧ t.lenAt c = 1 ∧ t.codeAt c = 1 ∧
        (∀ b, b ≠ c → t.lenAt b = 0 ∧ t.codeAt b = 0) ∧
        t = { s with len := t.len, code := t.code, codesValid := true, errcode := 0, seq := .idle }

/-- R141: on a tree of two or more symbols each leaf's codeword is the path to it from the root, 0 for left and 1 for
right, first step most significant, of length 1 to 255 and with CODE < 2^LEN; and a symbol that is on no leaf has none. -/
def Obligations.GencRecordsPaths : Prop :=
  ∀ s t : State, TreeWf s.treeSize.val s.root s.node → 2 ≤ s.treeSize.val → exec .genc s = .next t →
    (∀ bits j c w, pathFrom s.node s.root bits = some j → s.nodeAt j = .leaf c w →
      (t.lenAt c).toNat = bits.length ∧ symBits t c = bits ∧ 1 ≤ bits.length ∧
      (t.codeAt c).toNat < 2 ^ bits.length) ∧
    (∀ i : NodeIx, i.val < s.treeSize.val → ∃ bits, pathFrom s.node s.root bits = some i) ∧
    ∀ c, (∀ i : NodeIx, i.val < s.treeSize.val → ∀ w, s.nodeAt i ≠ .leaf c w) → t.lenAt c = 0 ∧ t.codeAt c = 0

/-- R141 (R144, which the spec derives from it): on a tree of two or more symbols the symbols with a codeword are exactly
those of the leaves, no codeword is the beginning of another's, and the sum of 2^(-LEN) is 1. -/
def Obligations.GencMakesFullPrefixCode : Prop :=
  ∀ s t : State, TreeWf s.treeSize.val s.root s.node → 2 ≤ s.treeSize.val → exec .genc s = .next t →
    (∀ c, t.lenAt c ≠ 0 ↔ ∃ (i : NodeIx) (w : Weight), i.val < s.treeSize.val ∧ s.nodeAt i = .leaf c w) ∧
    (∀ c d, c ≠ d → t.lenAt c ≠ 0 → t.lenAt d ≠ 0 → ¬ symBits t c <+: symBits t d) ∧
    ((allSyms.filter (fun c => t.lenAt c ≠ 0)).map (fun c => 2 ^ (255 - (t.lenAt c).toNat))).sum = 2 ^ 255

/-- R145: a second GENC with no BUILD between leaves everything as it is. -/
def Obligations.GencIsIdempotent : Prop :=
  ∀ s t : State, exec .genc s = .next t → exec .genc t = .next t

/-! ### ENC -/

/-- R160: the start; and over the start and every later step of the run nothing is written that R160 lists as never
written; and the run ends only through the close of R164. -/
def Obligations.EncStartAndFrame : Prop :=
  (∀ w : Word, decode w = some .enc ↔ w = 0x60000000) ∧
  (∀ s : State, exec .enc s = .next { s with encNsym := 0, encNbit := 0, seq := .encFetch }) ∧
  ∀ s t : State, (EncRunning s ∨ AboutToRun .enc s) → coreStep s = .next t →
    SameFreq s t ∧ SameTree s t ∧ SameCodes s t ∧ SameRes s t ∧ SameDecoder s t ∧ SameDecPorts s t ∧
    SameCommand s t ∧ SameHost s t ∧ t.draws = s.draws ∧
    (EncRunning t ∨ ∃ e, s.seq = .encClose e ∧ t.seq = .idle)

/-- R161, R162: the fetch; a symbol without a codeword raises E_NOCODE. R161 holds the core while SYM_IN is empty; that a
held core's turn is a NEXT state without change is the model's choice (log 6, DEDUCED). -/
def Obligations.EncFetchStep : Prop :=
  ∀ s : State, s.seq = .encFetch →
    (s.qSymIn = [] → coreStep s = .next s) ∧
    (∀ q, s.qSymIn = .fin :: q → coreStep s = .next { s with qSymIn := q, seq := .encClose 0 }) ∧
    (∀ c q, s.qSymIn = .sym c :: q → s.lenAt c = 0 → coreStep s =
      .next { s with qSymIn := q, errinfo := c.setWidth 32, seq := .encClose 3 }) ∧
    (∀ c q, s.qSymIn = .sym c :: q → s.lenAt c ≠ 0 → coreStep s =
      .next { s with qSymIn := q, seq := .encBit c ((s.lenAt c).toNat - 1) })

/-- R163, R164: emitting one bit and closing. Both rules hold the core while BIT_OUT has no free space; that a held core's
turn is a NEXT state without change is the model's choice (log 6, DEDUCED). -/
def Obligations.EncEmitAndCloseSteps : Prop :=
  ∀ s : State,
    (∀ c j, s.seq = .encBit c j → (¬ BitOutRoom s 1 → coreStep s = .next s) ∧ (BitOutRoom s 1 → coreStep s =
      .next { s with rBitOut := s.rBitOut ++ [.bit ((s.codeAt c).toNat.testBit j)], encNbit := s.encNbit + 1,
                     encNsym := if j = 0 then s.encNsym + 1 else s.encNsym,
                     seq := if j = 0 then .encFetch else .encBit c (j - 1) })) ∧
    (∀ e, s.seq = .encClose e → (¬ BitOutRoom s 1 → coreStep s = .next s) ∧ (BitOutRoom s 1 → coreStep s =
      .next { s with rBitOut := s.rBitOut ++ [.close], errcode := e, seq := .idle }))

/-- R160 to R164 (R166 and R253, which the spec derives from them): an ENC of a stream whose symbols all have codewords,
on a port with room, takes one step for the start, one for each symbol, one for each bit, and two to end; it puts every
codeword in stream order and one CLOSE, and the counters hold the symbols and the bits, modulo 2^32. -/
def Obligations.EncBitCountLaw : Prop :=
  ∀ (s : State) (syms : List Sym) (rest : List SymToken), AboutToRun .enc s →
    s.qSymIn = syms.map .sym ++ .fin :: rest → (∀ c ∈ syms, s.lenAt c ≠ 0) →
    BitOutRoom s (streamLen s syms + 1) →
    (streamBits s syms).length = streamLen s syms ∧
    coreRun (1 + syms.length + streamLen s syms + 1 + 1) s =
      .next { s with qSymIn := rest, rBitOut := s.rBitOut ++ (streamBits s syms).map .bit ++ [.close],
                     encNsym := BitVec.ofNat 32 syms.length, encNbit := BitVec.ofNat 32 (streamLen s syms),
                     errcode := 0, seq := .idle }

/-- R162, R164: an ENC that meets a symbol without a codeword keeps the bits before it, puts CLOSE, completes with
ERRCODE = 3 and the symbol in ERRINFO, and leaves the tokens after it on SYM_IN. -/
def Obligations.EncMissingCodewordRun : Prop :=
  ∀ (s : State) (syms : List Sym) (bad : Sym) (rest : List SymToken), AboutToRun .enc s →
    s.qSymIn = syms.map .sym ++ .sym bad :: rest → (∀ c ∈ syms, s.lenAt c ≠ 0) → s.lenAt bad = 0 →
    BitOutRoom s (streamLen s syms + 1) →
    coreRun (1 + syms.length + streamLen s syms + 1 + 1) s =
      .next { s with qSymIn := rest, rBitOut := s.rBitOut ++ (streamBits s syms).map .bit ++ [.close],
                     encNsym := BitVec.ofNat 32 syms.length, encNbit := BitVec.ofNat 32 (streamLen s syms),
                     errinfo := bad.setWidth 32, errcode := 3, seq := .idle }

/-! ### DEC -/

/-- R180: the start, straight to the close on the absent tree (R181); over the start and every later step of the run
nothing is written that R180 lists as never written, and ERRCODE only ever becomes 0. -/
def Obligations.DecStartAndFrame : Prop :=
  (∀ w : Word, decode w = some .dec ↔ w = 0x70000000) ∧
  (∀ s : State, exec .dec s =
    .next { s with decNbit := 0, decNsym := 0, decMidpath := false, decPtr := s.root,
                   seq := if s.treeSize.val = 0 then .decClose else .decFetch }) ∧
  ∀ s t : State, (DecRunning s ∨ AboutToRun .dec s) → coreStep s = .next t →
    SameFreq s t ∧ SameTree s t ∧ SameCodes s t ∧ SameRes s t ∧ SameEncCounters s t ∧ SameEncPorts s t ∧
    SameCommand s t ∧ SameHost s t ∧ t.errinfo = s.errinfo ∧ t.draws = s.draws ∧
    (t.errcode = s.errcode ∨ t.errcode = 0)

/-- R182: the fetch on the singleton tree. R182 holds the core while BIT_IN is empty; that a held core's turn is a NEXT
state without change is the model's choice (log 6, DEDUCED). -/
def Obligations.DecFetchOnSingleton : Prop :=
  ∀ s : State, s.seq = .decFetch → s.treeSize.val = 1 →
    (s.qBitIn = [] → coreStep s = .next s) ∧
    (∀ q, s.qBitIn = .fin :: q → coreStep s = .next { s with qBitIn := q, seq := .decClose }) ∧
    ∀ b q c w, s.qBitIn = .bit b :: q → s.nodeAt s.root = .leaf c w → coreStep s =
      .next { s with qBitIn := q, decNbit := s.decNbit + 1, seq := .decEmit c }

/-- R183, with R185's DEC_MIDPATH: the fetch on a tree of two or more symbols; where the invariant holds, the pointer is at
an internal node. R183 holds the core while BIT_IN is empty; that a held core's turn is a NEXT state without change is the
model's choice (log 6, DEDUCED). -/
def Obligations.DecFetchOnTree : Prop :=
  ∀ s : State, s.seq = .decFetch → 2 ≤ s.treeSize.val →
    (Inv s → ∃ l r w, s.nodeAt s.decPtr = .internal l r w) ∧
    (s.qBitIn = [] → coreStep s = .next s) ∧
    (∀ q, s.qBitIn = .fin :: q → coreStep s =
      .next { s with qBitIn := q, decMidpath := decide (s.decPtr ≠ s.root), seq := .decClose }) ∧
    ∀ b q l r w, s.qBitIn = .bit b :: q → s.nodeAt s.decPtr = .internal l r w →
      let p := if b then r else l
      (∀ c v, s.nodeAt p = .leaf c v → coreStep s =
        .next { s with qBitIn := q, decNbit := s.decNbit + 1, decPtr := s.root, seq := .decEmit c }) ∧
      (∀ l' r' v, s.nodeAt p = .internal l' r' v → coreStep s =
        .next { s with qBitIn := q, decNbit := s.decNbit + 1, decPtr := p })

/-- R184, R186: emitting a symbol and closing. Both rules hold the core while SYM_OUT has no free space; that a held core's
turn is a NEXT state without change is the model's choice (log 6, DEDUCED). -/
def Obligations.DecEmitAndCloseSteps : Prop :=
  ∀ s : State,
    (∀ c, s.seq = .decEmit c → (¬ SymOutRoom s 1 → coreStep s = .next s) ∧ (SymOutRoom s 1 → coreStep s =
      .next { s with rSymOut := s.rSymOut ++ [.sym c], decNsym := s.decNsym + 1, seq := .decFetch })) ∧
    (s.seq = .decClose → (¬ SymOutRoom s 1 → coreStep s = .next s) ∧ (SymOutRoom s 1 → coreStep s =
      .next { s with rSymOut := s.rSymOut ++ [.fin], errcode := 0, seq := .idle }))

/-- R181: a DEC on the absent tree takes two steps, takes no token, puts END and completes with ERRCODE = 0, whatever
BIT_IN holds. -/
def Obligations.DecOnAbsentTree : Prop :=
  ∀ s : State, AboutToRun .dec s → s.treeSize.val = 0 → SymOutRoom s 1 →
    coreRun 2 s = .next { s with rSymOut := s.rSymOut ++ [.fin], decNbit := 0, decNsym := 0, decMidpath := false,
                                 decPtr := s.root, errcode := 0, seq := .idle }

/-- R183 to R186 (R187 and R253, which the spec derives from them): on a tree of two or more symbols and for every bit
string, a DEC emits exactly the symbols the source's loop with its final flush emits, then END; it takes one step for the
start, one for each bit, one for each symbol and two to end; a path that is left over is dropped and shown by DEC_MIDPATH. -/
def Obligations.DecMatchesSourceLoop : Prop :=
  ∀ (s : State) (bits : List Bool) (rest : List BitToken), AboutToRun .dec s →
    TreeWf s.treeSize.val s.root s.node → 2 ≤ s.treeSize.val →
    s.qBitIn = bits.map .bit ++ .fin :: rest →
    let out := sourceLoop s.node s.root (2 * bits.length + 1) s.root bits
    let p := pointerAfter s.node s.root s.root bits
    SymOutRoom s (out.length + 1) →
    coreRun (1 + bits.length + out.length + 1 + 1) s =
      .next { s with qBitIn := rest, rSymOut := s.rSymOut ++ out.map .sym ++ [.fin],
                     decNbit := BitVec.ofNat 32 bits.length, decNsym := BitVec.ofNat 32 out.length,
                     decMidpath := decide (p ≠ s.root), decPtr := p, errcode := 0, seq := .idle }

/-- R163, R183 and R142 (R188, the round-trip law, which the spec derives): in every state of the invariant whose code table
is valid, an ENC of a stream of symbols with codewords puts some bits and CLOSE, and a DEC of exactly those bits, from
any later state with the same tree, puts the same symbols in the same order and END, with ERRCODE = 0, DEC_MIDPATH = 0
and the counters at the bits and the symbols, modulo 2^32; its END is taken but on the absent tree, where DEC takes no
token (R181). -/
def Obligations.RoundTrip : Prop :=
  ∀ (e : State) (syms : List Sym) (more : List SymToken), Inv e → e.codesValid = true → AboutToRun .enc e →
    e.qSymIn = syms.map .sym ++ .fin :: more → (∀ c ∈ syms, e.lenAt c ≠ 0) → BitOutRoom e (streamLen e syms + 1) →
    ∃ (bits : List Bool) (k : Nat) (e' : State), coreRun k e = .next e' ∧ e'.seq = .idle ∧ e'.errcode = 0 ∧
      e'.rBitOut = e.rBitOut ++ bits.map .bit ++ [.close] ∧
      ∀ (u : State) (rest : List BitToken), SameTree e' u → AboutToRun .dec u →
        u.qBitIn = bits.map .bit ++ .fin :: rest → SymOutRoom u (syms.length + 1) →
        ∃ (m : Nat) (t : State), coreRun m u = .next t ∧ t.seq = .idle ∧ t.errcode = 0 ∧ t.decMidpath = false ∧
          t.rSymOut = u.rSymOut ++ syms.map .sym ++ [.fin] ∧ (u.treeSize.val ≠ 0 → t.qBitIn = rest) ∧
          t.decNbit = BitVec.ofNat 32 bits.length ∧ t.decNsym = BitVec.ofNat 32 syms.length

/-! ### The whole machine -/

/-- R21, R42, R43, R224: the core's turn changes nothing exactly when it has no enabled step: idle, or held on a port. That
such a turn is a NEXT state is the model's choice (log 6, DEDUCED). -/
def Obligations.CoreHeldIffUnchanged : Prop :=
  ∀ s : State, coreStep s = .next s ↔ coreEnabled s = false

/-- R30, R31, R33, R35, R36, R249: over all steps of both agents, FREQ changes only by CLRF, WRF or a reset, the tree only
by BUILD or a reset, and the code table only by BUILD, GENC or a reset. -/
def Obligations.SessionStateWriters : Prop :=
  ∀ s t : State, step s = .next t →
    (¬ SameFreq s t → AboutToRun .clrf s ∨ (∃ c, AboutToRun (.wrf c) s) ∨ ResetNext s) ∧
    (¬ SameTree s t → AboutToRun .build s ∨ ResetNext s) ∧
    (¬ SameCodes s t → AboutToRun .build s ∨ AboutToRun .genc s ∨ ResetNext s)

/-- R28, R29, R203: over all steps of both agents, RES0 to RES3 change only by RDF, RDCODE or RDNODE or a reset; ERRINFO
changes only by an accepted CMD write, which clears it, by a reset, or by an ENC that takes a symbol without a codeword,
which puts that symbol there. -/
def Obligations.ResultRegisterWriters : Prop :=
  ∀ s t : State, step s = .next t →
    (¬ SameRes s t →
      ((∃ c, AboutToRun (.rdf c) s) ∨ (∃ c k, AboutToRun (.rdcode c k) s) ∨ ∃ i, AboutToRun (.rdnode i) s) ∨
      ResetNext s) ∧
    (t.errinfo ≠ s.errinfo →
      (t.errinfo = 0 ∧ s.seq = .idle ∧ ∃ v rest, s.program = .wr .cmd v :: rest) ∨ ResetNext s ∨
      (s.seq = .encFetch ∧ ∃ c q, s.qSymIn = .sym c :: q ∧ s.lenAt c = 0 ∧ t.errinfo = c.setWidth 32))

/-- R24, R27, R38, R205: no core step of any command changes CMD, DATA0, the operand latch or OVERRUN, or anything of the
host's but the ports. -/
def Obligations.CoreLeavesCommandRegisters : Prop :=
  ∀ s t : State, coreStep s = .next t → SameCommand s t ∧ SameHost s t

/-- R42, R43, R75: each core step takes at most the head token of one input port, or appends at most one token to one
output port, and touches no second port. -/
def Obligations.PortsAreFirstInFirstOut : Prop :=
  ∀ s t : State, coreStep s = .next t →
    (SameEncPorts s t ∧ SameDecPorts s t) ∨
    (SameDecPorts s t ∧ t.rBitOut = s.rBitOut ∧ ∃ k, s.qSymIn = k :: t.qSymIn) ∨
    (SameDecPorts s t ∧ t.qSymIn = s.qSymIn ∧ ∃ k, t.rBitOut = s.rBitOut ++ [k]) ∨
    (SameEncPorts s t ∧ t.rSymOut = s.rSymOut ∧ ∃ k, s.qBitIn = k :: t.qBitIn) ∨
    (SameEncPorts s t ∧ t.qBitIn = s.qBitIn ∧ ∃ k, t.rSymOut = s.rSymOut ++ [k])

/-- R44: between the starts, the counters follow the tokens, modulo 2^32: ENC_NBIT the BIT tokens put on BIT_OUT, DEC_NBIT
the BIT tokens taken from BIT_IN, DEC_NSYM the SYM tokens put on SYM_OUT, ENC_NSYM the last bits of codewords; a start
clears its own pair; END and CLOSE are not counted. -/
def Obligations.CountersCountTokens : Prop :=
  ∀ s t : State, coreStep s = .next t →
    (AboutToRun .enc s → t.encNsym = 0 ∧ t.encNbit = 0) ∧
    (AboutToRun .dec s → t.decNbit = 0 ∧ t.decNsym = 0) ∧
    (¬ AboutToRun .enc s →
      t.encNbit = s.encNbit + BitVec.ofNat 32 (bitTokens t.rBitOut - bitTokens s.rBitOut) ∧
      t.encNsym = s.encNsym + (if lastBitNext s then 1 else 0)) ∧
    (¬ AboutToRun .dec s →
      t.decNbit = s.decNbit + BitVec.ofNat 32 (offeredBits s.qBitIn - offeredBits t.qBitIn) ∧
      t.decNsym = s.decNsym + BitVec.ofNat 32 (symTokens t.rSymOut - symTokens s.rSymOut))
end

