-- ==== Sys2Proof/Laws/Tables.lean ====
section
/-! SUPPORT. The laws of a table: a read after a write, and that every write keeps the canonical form. -/

namespace Sys2Proof.Machine

variable {α : Type} {d : α}

@[simp] theorem tableGet_nil (i : Nat) : tableGet d [] i = d := rfl

theorem tableGet_erase (t : Table α) (i j : Nat) :
    tableGet d (tableErase t i) j = if i = j then d else tableGet d t j := by
  induction t with
  | nil => simp [tableErase]
  | cons c t ih =>
    obtain ⟨k, v⟩ := c
    simp only [tableErase]
    by_cases hk : k = i
    · subst hk
      simp only [if_pos, ih]
      split <;> simp_all [tableGet]
    · simp only [if_neg hk, tableGet, ih]
      by_cases hj : k = j
      · subst hj; simp [Ne.symm hk]
      · simp [hj]

/-- No entry is left at an erased index. -/
theorem tableErase_not_mem (t : Table α) (i : Nat) : ∀ c ∈ tableErase t i, c.1 ≠ i := by
  induction t with
  | nil => simp [tableErase]
  | cons c t ih =>
    obtain ⟨k, v⟩ := c
    simp only [tableErase]
    split
    · exact ih
    · intro c hc
      rcases List.mem_cons.mp hc with rfl | hc
      · assumption
      · exact ih c hc

theorem tableGet_insert (t : Table α) (i j : Nat) (v : α) (h : ∀ c ∈ t, c.1 ≠ i) :
    tableGet d (tableInsert t i v) j = if i = j then v else tableGet d t j := by
  induction t with
  | nil => simp [tableInsert, tableGet]
  | cons c t ih =>
    obtain ⟨k, x⟩ := c
    have hk : k ≠ i := h (k, x) (by simp)
    have ih := ih (fun c hc => h c (by simp [hc]))
    simp only [tableInsert]
    by_cases hik : i < k
    · simp [hik, tableGet]
    · simp only [hik, if_false, tableGet, ih]
      by_cases hj : k = j
      · subst hj; simp [Ne.symm hk]
      · simp [hj]

/-- A read after a write: the value written at the index written, and every other index as before. -/
@[simp] theorem tableGet_set [DecidableEq α] (t : Table α) (i j : Nat) (v : α) :
    tableGet d (tableSet d t i v) j = if i = j then v else tableGet d t j := by
  unfold tableSet
  split
  · rename_i hv
    rw [tableGet_erase, hv]
  · rw [tableGet_insert _ _ _ _ (tableErase_not_mem t i), tableGet_erase]
    split <;> rfl

/-- Every entry of an erased table is one of the table's. -/
theorem mem_of_mem_tableErase (t : Table α) (i : Nat) : ∀ c ∈ tableErase t i, c ∈ t := by
  induction t with
  | nil => simp [tableErase]
  | cons c t ih =>
    obtain ⟨k, v⟩ := c
    simp only [tableErase]
    split
    · exact fun c hc => List.mem_cons_of_mem _ (ih c hc)
    · intro c hc
      rcases List.mem_cons.mp hc with rfl | hc
      · simp
      · exact List.mem_cons_of_mem _ (ih c hc)

theorem mem_tableInsert (t : Table α) (i : Nat) (v : α) (c : Nat × α) :
    c ∈ tableInsert t i v ↔ c = (i, v) ∨ c ∈ t := by
  induction t with
  | nil => simp [tableInsert]
  | cons b t ih =>
    obtain ⟨k, x⟩ := b
    simp only [tableInsert]
    split
    · simp
    · simp [ih]; tauto

theorem tableErase_pairwise (t : Table α) (i : Nat) (h : t.Pairwise (fun a b => a.1 < b.1)) :
    (tableErase t i).Pairwise (fun a b => a.1 < b.1) := by
  induction t with
  | nil => simp [tableErase]
  | cons c t ih =>
    obtain ⟨k, v⟩ := c
    rw [List.pairwise_cons] at h
    simp only [tableErase]
    split
    · exact ih h.2
    · exact List.pairwise_cons.mpr ⟨fun b hb => h.1 b (mem_of_mem_tableErase t i b hb), ih h.2⟩

theorem tableInsert_pairwise (t : Table α) (i : Nat) (v : α) (h : t.Pairwise (fun a b => a.1 < b.1))
    (hi : ∀ c ∈ t, c.1 ≠ i) : (tableInsert t i v).Pairwise (fun a b => a.1 < b.1) := by
  induction t with
  | nil => simp [tableInsert]
  | cons c t ih =>
    obtain ⟨k, x⟩ := c
    have hk : k ≠ i := hi (k, x) (by simp)
    have ht := List.pairwise_cons.mp h
    simp only [tableInsert]
    split
    · rename_i hik
      refine List.pairwise_cons.mpr ⟨fun b hb => ?_, h⟩
      rcases List.mem_cons.mp hb with rfl | hb
      · exact hik
      · exact lt_trans hik (ht.1 b hb)
    · rename_i hik
      refine List.pairwise_cons.mpr ⟨fun b hb => ?_, ih ht.2 (fun c hc => hi c (by simp [hc]))⟩
      rcases (mem_tableInsert t i v b).mp hb with rfl | hb
      · show k < i; omega
      · exact ht.1 b hb

theorem tableWf_nil (n : Nat) : tableWf d n ([] : Table α) := by simp [tableWf]

/-- Every table write keeps the canonical form. -/
theorem tableWf_set [DecidableEq α] (n : Nat) (t : Table α) (i : Nat) (v : α) (h : tableWf d n t) (hi : i < n) :
    tableWf d n (tableSet d t i v) := by
  have herase : ∀ c ∈ tableErase t i, c.1 < n ∧ c.2 ≠ d := fun c hc => h.2 c (mem_of_mem_tableErase t i c hc)
  unfold tableSet
  split
  · exact ⟨tableErase_pairwise t i h.1, herase⟩
  · rename_i hv
    refine ⟨tableInsert_pairwise _ i v (tableErase_pairwise t i h.1) (tableErase_not_mem t i), fun c hc => ?_⟩
    rcases (mem_tableInsert _ i v c).mp hc with rfl | hc
    · exact ⟨hi, hv⟩
    · exact herase c hc

/-- An index below every listed one reads as the reset entry. -/
theorem tableGet_below (t : Table α) (i : Nat) (h : ∀ c ∈ t, i < c.1) : tableGet d t i = d := by
  induction t with
  | nil => rfl
  | cons c t ih =>
    obtain ⟨k, v⟩ := c
    have hk : i < k := h (k, v) (by simp)
    simp only [tableGet]
    rw [if_neg (by omega), ih (fun c hc => h c (by simp [hc]))]

/-- Canonical tables that read the same everywhere are equal: equal tables are equal data. -/
theorem table_ext {n : Nat} {t u : Table α} (ht : tableWf d n t) (hu : tableWf d n u)
    (h : ∀ i, tableGet d t i = tableGet d u i) : t = u := by
  induction t generalizing u with
  | nil =>
    cases u with
    | nil => rfl
    | cons c u =>
      obtain ⟨k, v⟩ := c
      exact absurd (by simpa [tableGet] using (h k).symm) (hu.2 (k, v) (by simp)).2
  | cons c t ih =>
    obtain ⟨k, v⟩ := c
    have hv : v ≠ d := (ht.2 (k, v) (by simp)).2
    have ht' := List.pairwise_cons.mp ht.1
    cases u with
    | nil => exact absurd (by simpa [tableGet] using h k) hv
    | cons b u =>
      obtain ⟨l, w⟩ := b
      have hw : w ≠ d := (hu.2 (l, w) (by simp)).2
      have hu' := List.pairwise_cons.mp hu.1
      have hkl : k = l := by
        rcases lt_trichotomy k l with hlt | rfl | hlt
        · have := h k
          rw [tableGet_below (d := d) ((l, w) :: u) k (by
            intro c hc
            rcases List.mem_cons.mp hc with rfl | hc
            · exact hlt
            · exact lt_trans hlt (hu'.1 c hc))] at this
          exact absurd (by simpa [tableGet] using this) hv
        · rfl
        · have := h l
          rw [tableGet_below (d := d) ((k, v) :: t) l (by
            intro c hc
            rcases List.mem_cons.mp hc with rfl | hc
            · exact hlt
            · exact lt_trans hlt (ht'.1 c hc))] at this
          exact absurd (by simpa [tableGet] using this.symm) hw
      subst hkl
      have hvw : v = w := by simpa [tableGet] using h k
      subst hvw
      have htu : t = u := by
        refine ih ⟨ht'.2, fun c hc => ht.2 c (by simp [hc])⟩ ⟨hu'.2, fun c hc => hu.2 c (by simp [hc])⟩ fun i => ?_
        by_cases hi : k = i
        · subst hi
          rw [tableGet_below t k ht'.1, tableGet_below u k hu'.1]
        · simpa [tableGet, hi] using h i
      rw [htu]

@[simp] theorem nodeIx_val {k : Nat} (h : k < 511) : (nodeIx k).val = k := by
  simp [nodeIx, Fin.ofNat, Nat.mod_eq_of_lt h]

theorem sym_toNat_lt (c : Sym) : c.toNat < 256 := c.isLt

end Sys2Proof.Machine
end

