-- ==== Sys2Proof/Laws/Builders.lean ====
section
/-! SUPPORT. What BUILD and GENC do to the state, said once, and how the tables they write read afterwards. -/

namespace Sys2Proof.Machine

/-- BUILD writes the code table, the tree and the count of draws, and nothing else (R120). -/
theorem State.buildTree_frame (sel : Nat → Nat) (s : State) :
    s.buildTree sel = { s with
      len := [], code := [], codesValid := false
      node := (s.buildTree sel).node, treeSize := (s.buildTree sel).treeSize, root := (s.buildTree sel).root
      draws := (s.buildTree sel).draws } := rfl

/-- The symbols BUILD gives a leaf are those with an entry in FREQ (R121). -/
theorem mem_presentSyms_iff (freq : Table Word) (c : Sym) :
    c ∈ presentSyms freq ↔ tableGet 0 freq c.toNat ≠ 0 := by
  simp only [presentSyms, allSyms, List.mem_filter, List.mem_map, List.mem_range, decide_eq_true_eq]
  exact ⟨fun h => h.2, fun h => ⟨⟨c.toNat, c.isLt, by simp⟩, h⟩⟩

/-- The weight of a node after one node is written. -/
theorem weightAt_set (node : Table Node) (k : Nat) (n : Node) (i : NodeIx) :
    weightAt (tableSet blankNode node k n) i = if k = i.val then n.weight else weightAt node i := by
  unfold weightAt
  rw [tableGet_set]
  split <;> rfl

/-- LEN after one codeword is recorded. -/
theorem CodeTab.len_put (t : CodeTab) (sym c : Sym) (l : CodeLen) (code : CodeBits) :
    tableGet 0 (t.put sym l code).len c.toNat = if sym = c then l else tableGet 0 t.len c.toNat := by
  simp [CodeTab.put, BitVec.toNat_inj]

/-- CODE after one codeword is recorded. -/
theorem CodeTab.code_put (t : CodeTab) (sym c : Sym) (l : CodeLen) (code : CodeBits) :
    tableGet 0 (t.put sym l code).code c.toNat = if sym = c then code else tableGet 0 t.code c.toNat := by
  simp [CodeTab.put, BitVec.toNat_inj]

/-- Recording a codeword keeps the canonical form of both tables. -/
theorem CodeTab.wf_put (t : CodeTab) (sym : Sym) (l : CodeLen) (code : CodeBits) (hl : tableWf 0 256 t.len)
    (hc : tableWf 0 256 t.code) : tableWf 0 256 (t.put sym l code).len ∧ tableWf 0 256 (t.put sym l code).code :=
  ⟨tableWf_set _ _ _ _ hl sym.isLt, tableWf_set _ _ _ _ hc sym.isLt⟩

/-- When GENC gives a next state, and which (R140, R143). -/
theorem execGenc_eq_next_iff (s t : State) :
    execGenc s = .next t ↔ ∃ tab, genTable s.treeSize.val s.root s.node = .ok tab ∧
      t = { s with len := tab.len, code := tab.code, codesValid := true, errcode := 0, seq := .idle } := by
  unfold execGenc
  split
  · rename_i tab h
    constructor
    · intro ht
      cases ht
      exact ⟨tab, h, rfl⟩
    · rintro ⟨tab', h', rfl⟩
      rw [h] at h'
      cases h'
      rfl
  · rename_i e h
    constructor
    · intro ht
      cases ht
    · rintro ⟨tab', h', _⟩
      rw [h] at h'
      cases h'

end Sys2Proof.Machine
end

