-- ==== Sys2Proof/Laws/State.lean ====
section
/-! SUPPORT. What each named update of State leaves in each field, true by rfl, so that no proof unfolds a record update.
`State.raise` has the same lemmas by its three cases. -/

namespace Sys2Proof.Machine

section
variable (s : State) (q : SeqState)

@[simp] theorem State.setSeq_cmd : (State.setSeq q s).cmd = s.cmd := rfl
@[simp] theorem State.setSeq_data0 : (State.setSeq q s).data0 = s.data0 := rfl
@[simp] theorem State.setSeq_res0 : (State.setSeq q s).res0 = s.res0 := rfl
@[simp] theorem State.setSeq_res1 : (State.setSeq q s).res1 = s.res1 := rfl
@[simp] theorem State.setSeq_res2 : (State.setSeq q s).res2 = s.res2 := rfl
@[simp] theorem State.setSeq_res3 : (State.setSeq q s).res3 = s.res3 := rfl
@[simp] theorem State.setSeq_errinfo : (State.setSeq q s).errinfo = s.errinfo := rfl
@[simp] theorem State.setSeq_errcode : (State.setSeq q s).errcode = s.errcode := rfl
@[simp] theorem State.setSeq_overrun : (State.setSeq q s).overrun = s.overrun := rfl
@[simp] theorem State.setSeq_decMidpath : (State.setSeq q s).decMidpath = s.decMidpath := rfl
@[simp] theorem State.setSeq_codesValid : (State.setSeq q s).codesValid = s.codesValid := rfl
@[simp] theorem State.setSeq_encNsym : (State.setSeq q s).encNsym = s.encNsym := rfl
@[simp] theorem State.setSeq_encNbit : (State.setSeq q s).encNbit = s.encNbit := rfl
@[simp] theorem State.setSeq_decNbit : (State.setSeq q s).decNbit = s.decNbit := rfl
@[simp] theorem State.setSeq_decNsym : (State.setSeq q s).decNsym = s.decNsym := rfl
@[simp] theorem State.setSeq_freq : (State.setSeq q s).freq = s.freq := rfl
@[simp] theorem State.setSeq_node : (State.setSeq q s).node = s.node := rfl
@[simp] theorem State.setSeq_treeSize : (State.setSeq q s).treeSize = s.treeSize := rfl
@[simp] theorem State.setSeq_root : (State.setSeq q s).root = s.root := rfl
@[simp] theorem State.setSeq_len : (State.setSeq q s).len = s.len := rfl
@[simp] theorem State.setSeq_code : (State.setSeq q s).code = s.code := rfl
@[simp] theorem State.setSeq_seq : (State.setSeq q s).seq = q := rfl
@[simp] theorem State.setSeq_lcmd : (State.setSeq q s).lcmd = s.lcmd := rfl
@[simp] theorem State.setSeq_ldata : (State.setSeq q s).ldata = s.ldata := rfl
@[simp] theorem State.setSeq_decPtr : (State.setSeq q s).decPtr = s.decPtr := rfl
@[simp] theorem State.setSeq_qSymIn : (State.setSeq q s).qSymIn = s.qSymIn := rfl
@[simp] theorem State.setSeq_qBitIn : (State.setSeq q s).qBitIn = s.qBitIn := rfl
@[simp] theorem State.setSeq_rBitOut : (State.setSeq q s).rBitOut = s.rBitOut := rfl
@[simp] theorem State.setSeq_rSymOut : (State.setSeq q s).rSymOut = s.rSymOut := rfl
@[simp] theorem State.setSeq_outCap : (State.setSeq q s).outCap = s.outCap := rfl
@[simp] theorem State.setSeq_draws : (State.setSeq q s).draws = s.draws := rfl
@[simp] theorem State.setSeq_program : (State.setSeq q s).program = s.program := rfl
@[simp] theorem State.setSeq_sched : (State.setSeq q s).sched = s.sched := rfl
@[simp] theorem State.setSeq_rdata : (State.setSeq q s).rdata = s.rdata := rfl
@[simp] theorem State.setSeq_got : (State.setSeq q s).got = s.got := rfl

end

section
variable (s : State) (c : Sym) (n : Word)

@[simp] theorem State.setFreq_cmd : (State.setFreq c n s).cmd = s.cmd := rfl
@[simp] theorem State.setFreq_data0 : (State.setFreq c n s).data0 = s.data0 := rfl
@[simp] theorem State.setFreq_res0 : (State.setFreq c n s).res0 = s.res0 := rfl
@[simp] theorem State.setFreq_res1 : (State.setFreq c n s).res1 = s.res1 := rfl
@[simp] theorem State.setFreq_res2 : (State.setFreq c n s).res2 = s.res2 := rfl
@[simp] theorem State.setFreq_res3 : (State.setFreq c n s).res3 = s.res3 := rfl
@[simp] theorem State.setFreq_errinfo : (State.setFreq c n s).errinfo = s.errinfo := rfl
@[simp] theorem State.setFreq_errcode : (State.setFreq c n s).errcode = s.errcode := rfl
@[simp] theorem State.setFreq_overrun : (State.setFreq c n s).overrun = s.overrun := rfl
@[simp] theorem State.setFreq_decMidpath : (State.setFreq c n s).decMidpath = s.decMidpath := rfl
@[simp] theorem State.setFreq_codesValid : (State.setFreq c n s).codesValid = s.codesValid := rfl
@[simp] theorem State.setFreq_encNsym : (State.setFreq c n s).encNsym = s.encNsym := rfl
@[simp] theorem State.setFreq_encNbit : (State.setFreq c n s).encNbit = s.encNbit := rfl
@[simp] theorem State.setFreq_decNbit : (State.setFreq c n s).decNbit = s.decNbit := rfl
@[simp] theorem State.setFreq_decNsym : (State.setFreq c n s).decNsym = s.decNsym := rfl
@[simp] theorem State.setFreq_freq : (State.setFreq c n s).freq = tableSet 0 s.freq c.toNat n := rfl
@[simp] theorem State.setFreq_node : (State.setFreq c n s).node = s.node := rfl
@[simp] theorem State.setFreq_treeSize : (State.setFreq c n s).treeSize = s.treeSize := rfl
@[simp] theorem State.setFreq_root : (State.setFreq c n s).root = s.root := rfl
@[simp] theorem State.setFreq_len : (State.setFreq c n s).len = s.len := rfl
@[simp] theorem State.setFreq_code : (State.setFreq c n s).code = s.code := rfl
@[simp] theorem State.setFreq_seq : (State.setFreq c n s).seq = s.seq := rfl
@[simp] theorem State.setFreq_lcmd : (State.setFreq c n s).lcmd = s.lcmd := rfl
@[simp] theorem State.setFreq_ldata : (State.setFreq c n s).ldata = s.ldata := rfl
@[simp] theorem State.setFreq_decPtr : (State.setFreq c n s).decPtr = s.decPtr := rfl
@[simp] theorem State.setFreq_qSymIn : (State.setFreq c n s).qSymIn = s.qSymIn := rfl
@[simp] theorem State.setFreq_qBitIn : (State.setFreq c n s).qBitIn = s.qBitIn := rfl
@[simp] theorem State.setFreq_rBitOut : (State.setFreq c n s).rBitOut = s.rBitOut := rfl
@[simp] theorem State.setFreq_rSymOut : (State.setFreq c n s).rSymOut = s.rSymOut := rfl
@[simp] theorem State.setFreq_outCap : (State.setFreq c n s).outCap = s.outCap := rfl
@[simp] theorem State.setFreq_draws : (State.setFreq c n s).draws = s.draws := rfl
@[simp] theorem State.setFreq_program : (State.setFreq c n s).program = s.program := rfl
@[simp] theorem State.setFreq_sched : (State.setFreq c n s).sched = s.sched := rfl
@[simp] theorem State.setFreq_rdata : (State.setFreq c n s).rdata = s.rdata := rfl
@[simp] theorem State.setFreq_got : (State.setFreq c n s).got = s.got := rfl

end

section
variable (s : State) (r0 r1 r2 r3 : Word)

@[simp] theorem State.setRes_cmd : (State.setRes r0 r1 r2 r3 s).cmd = s.cmd := rfl
@[simp] theorem State.setRes_data0 : (State.setRes r0 r1 r2 r3 s).data0 = s.data0 := rfl
@[simp] theorem State.setRes_res0 : (State.setRes r0 r1 r2 r3 s).res0 = r0 := rfl
@[simp] theorem State.setRes_res1 : (State.setRes r0 r1 r2 r3 s).res1 = r1 := rfl
@[simp] theorem State.setRes_res2 : (State.setRes r0 r1 r2 r3 s).res2 = r2 := rfl
@[simp] theorem State.setRes_res3 : (State.setRes r0 r1 r2 r3 s).res3 = r3 := rfl
@[simp] theorem State.setRes_errinfo : (State.setRes r0 r1 r2 r3 s).errinfo = s.errinfo := rfl
@[simp] theorem State.setRes_errcode : (State.setRes r0 r1 r2 r3 s).errcode = s.errcode := rfl
@[simp] theorem State.setRes_overrun : (State.setRes r0 r1 r2 r3 s).overrun = s.overrun := rfl
@[simp] theorem State.setRes_decMidpath : (State.setRes r0 r1 r2 r3 s).decMidpath = s.decMidpath := rfl
@[simp] theorem State.setRes_codesValid : (State.setRes r0 r1 r2 r3 s).codesValid = s.codesValid := rfl
@[simp] theorem State.setRes_encNsym : (State.setRes r0 r1 r2 r3 s).encNsym = s.encNsym := rfl
@[simp] theorem State.setRes_encNbit : (State.setRes r0 r1 r2 r3 s).encNbit = s.encNbit := rfl
@[simp] theorem State.setRes_decNbit : (State.setRes r0 r1 r2 r3 s).decNbit = s.decNbit := rfl
@[simp] theorem State.setRes_decNsym : (State.setRes r0 r1 r2 r3 s).decNsym = s.decNsym := rfl
@[simp] theorem State.setRes_freq : (State.setRes r0 r1 r2 r3 s).freq = s.freq := rfl
@[simp] theorem State.setRes_node : (State.setRes r0 r1 r2 r3 s).node = s.node := rfl
@[simp] theorem State.setRes_treeSize : (State.setRes r0 r1 r2 r3 s).treeSize = s.treeSize := rfl
@[simp] theorem State.setRes_root : (State.setRes r0 r1 r2 r3 s).root = s.root := rfl
@[simp] theorem State.setRes_len : (State.setRes r0 r1 r2 r3 s).len = s.len := rfl
@[simp] theorem State.setRes_code : (State.setRes r0 r1 r2 r3 s).code = s.code := rfl
@[simp] theorem State.setRes_seq : (State.setRes r0 r1 r2 r3 s).seq = s.seq := rfl
@[simp] theorem State.setRes_lcmd : (State.setRes r0 r1 r2 r3 s).lcmd = s.lcmd := rfl
@[simp] theorem State.setRes_ldata : (State.setRes r0 r1 r2 r3 s).ldata = s.ldata := rfl
@[simp] theorem State.setRes_decPtr : (State.setRes r0 r1 r2 r3 s).decPtr = s.decPtr := rfl
@[simp] theorem State.setRes_qSymIn : (State.setRes r0 r1 r2 r3 s).qSymIn = s.qSymIn := rfl
@[simp] theorem State.setRes_qBitIn : (State.setRes r0 r1 r2 r3 s).qBitIn = s.qBitIn := rfl
@[simp] theorem State.setRes_rBitOut : (State.setRes r0 r1 r2 r3 s).rBitOut = s.rBitOut := rfl
@[simp] theorem State.setRes_rSymOut : (State.setRes r0 r1 r2 r3 s).rSymOut = s.rSymOut := rfl
@[simp] theorem State.setRes_outCap : (State.setRes r0 r1 r2 r3 s).outCap = s.outCap := rfl
@[simp] theorem State.setRes_draws : (State.setRes r0 r1 r2 r3 s).draws = s.draws := rfl
@[simp] theorem State.setRes_program : (State.setRes r0 r1 r2 r3 s).program = s.program := rfl
@[simp] theorem State.setRes_sched : (State.setRes r0 r1 r2 r3 s).sched = s.sched := rfl
@[simp] theorem State.setRes_rdata : (State.setRes r0 r1 r2 r3 s).rdata = s.rdata := rfl
@[simp] theorem State.setRes_got : (State.setRes r0 r1 r2 r3 s).got = s.got := rfl

end

section
variable (s : State) (e : ErrCode)

@[simp] theorem State.complete_cmd : (State.complete e s).cmd = s.cmd := rfl
@[simp] theorem State.complete_data0 : (State.complete e s).data0 = s.data0 := rfl
@[simp] theorem State.complete_res0 : (State.complete e s).res0 = s.res0 := rfl
@[simp] theorem State.complete_res1 : (State.complete e s).res1 = s.res1 := rfl
@[simp] theorem State.complete_res2 : (State.complete e s).res2 = s.res2 := rfl
@[simp] theorem State.complete_res3 : (State.complete e s).res3 = s.res3 := rfl
@[simp] theorem State.complete_errinfo : (State.complete e s).errinfo = s.errinfo := rfl
@[simp] theorem State.complete_errcode : (State.complete e s).errcode = e := rfl
@[simp] theorem State.complete_overrun : (State.complete e s).overrun = s.overrun := rfl
@[simp] theorem State.complete_decMidpath : (State.complete e s).decMidpath = s.decMidpath := rfl
@[simp] theorem State.complete_codesValid : (State.complete e s).codesValid = s.codesValid := rfl
@[simp] theorem State.complete_encNsym : (State.complete e s).encNsym = s.encNsym := rfl
@[simp] theorem State.complete_encNbit : (State.complete e s).encNbit = s.encNbit := rfl
@[simp] theorem State.complete_decNbit : (State.complete e s).decNbit = s.decNbit := rfl
@[simp] theorem State.complete_decNsym : (State.complete e s).decNsym = s.decNsym := rfl
@[simp] theorem State.complete_freq : (State.complete e s).freq = s.freq := rfl
@[simp] theorem State.complete_node : (State.complete e s).node = s.node := rfl
@[simp] theorem State.complete_treeSize : (State.complete e s).treeSize = s.treeSize := rfl
@[simp] theorem State.complete_root : (State.complete e s).root = s.root := rfl
@[simp] theorem State.complete_len : (State.complete e s).len = s.len := rfl
@[simp] theorem State.complete_code : (State.complete e s).code = s.code := rfl
@[simp] theorem State.complete_seq : (State.complete e s).seq = .idle := rfl
@[simp] theorem State.complete_lcmd : (State.complete e s).lcmd = s.lcmd := rfl
@[simp] theorem State.complete_ldata : (State.complete e s).ldata = s.ldata := rfl
@[simp] theorem State.complete_decPtr : (State.complete e s).decPtr = s.decPtr := rfl
@[simp] theorem State.complete_qSymIn : (State.complete e s).qSymIn = s.qSymIn := rfl
@[simp] theorem State.complete_qBitIn : (State.complete e s).qBitIn = s.qBitIn := rfl
@[simp] theorem State.complete_rBitOut : (State.complete e s).rBitOut = s.rBitOut := rfl
@[simp] theorem State.complete_rSymOut : (State.complete e s).rSymOut = s.rSymOut := rfl
@[simp] theorem State.complete_outCap : (State.complete e s).outCap = s.outCap := rfl
@[simp] theorem State.complete_draws : (State.complete e s).draws = s.draws := rfl
@[simp] theorem State.complete_program : (State.complete e s).program = s.program := rfl
@[simp] theorem State.complete_sched : (State.complete e s).sched = s.sched := rfl
@[simp] theorem State.complete_rdata : (State.complete e s).rdata = s.rdata := rfl
@[simp] theorem State.complete_got : (State.complete e s).got = s.got := rfl

end

section
variable (s : State) (v : Word)

@[simp] theorem State.accept_cmd : (State.accept v s).cmd = v := rfl
@[simp] theorem State.accept_data0 : (State.accept v s).data0 = s.data0 := rfl
@[simp] theorem State.accept_res0 : (State.accept v s).res0 = s.res0 := rfl
@[simp] theorem State.accept_res1 : (State.accept v s).res1 = s.res1 := rfl
@[simp] theorem State.accept_res2 : (State.accept v s).res2 = s.res2 := rfl
@[simp] theorem State.accept_res3 : (State.accept v s).res3 = s.res3 := rfl
@[simp] theorem State.accept_errinfo : (State.accept v s).errinfo = 0 := rfl
@[simp] theorem State.accept_errcode : (State.accept v s).errcode = 0 := rfl
@[simp] theorem State.accept_overrun : (State.accept v s).overrun = s.overrun := rfl
@[simp] theorem State.accept_decMidpath : (State.accept v s).decMidpath = s.decMidpath := rfl
@[simp] theorem State.accept_codesValid : (State.accept v s).codesValid = s.codesValid := rfl
@[simp] theorem State.accept_encNsym : (State.accept v s).encNsym = s.encNsym := rfl
@[simp] theorem State.accept_encNbit : (State.accept v s).encNbit = s.encNbit := rfl
@[simp] theorem State.accept_decNbit : (State.accept v s).decNbit = s.decNbit := rfl
@[simp] theorem State.accept_decNsym : (State.accept v s).decNsym = s.decNsym := rfl
@[simp] theorem State.accept_freq : (State.accept v s).freq = s.freq := rfl
@[simp] theorem State.accept_node : (State.accept v s).node = s.node := rfl
@[simp] theorem State.accept_treeSize : (State.accept v s).treeSize = s.treeSize := rfl
@[simp] theorem State.accept_root : (State.accept v s).root = s.root := rfl
@[simp] theorem State.accept_len : (State.accept v s).len = s.len := rfl
@[simp] theorem State.accept_code : (State.accept v s).code = s.code := rfl
@[simp] theorem State.accept_seq : (State.accept v s).seq = .exec := rfl
@[simp] theorem State.accept_lcmd : (State.accept v s).lcmd = v := rfl
@[simp] theorem State.accept_ldata : (State.accept v s).ldata = s.data0 := rfl
@[simp] theorem State.accept_decPtr : (State.accept v s).decPtr = s.decPtr := rfl
@[simp] theorem State.accept_qSymIn : (State.accept v s).qSymIn = s.qSymIn := rfl
@[simp] theorem State.accept_qBitIn : (State.accept v s).qBitIn = s.qBitIn := rfl
@[simp] theorem State.accept_rBitOut : (State.accept v s).rBitOut = s.rBitOut := rfl
@[simp] theorem State.accept_rSymOut : (State.accept v s).rSymOut = s.rSymOut := rfl
@[simp] theorem State.accept_outCap : (State.accept v s).outCap = s.outCap := rfl
@[simp] theorem State.accept_draws : (State.accept v s).draws = s.draws := rfl
@[simp] theorem State.accept_program : (State.accept v s).program = s.program := rfl
@[simp] theorem State.accept_sched : (State.accept v s).sched = s.sched := rfl
@[simp] theorem State.accept_rdata : (State.accept v s).rdata = s.rdata := rfl
@[simp] theorem State.accept_got : (State.accept v s).got = s.got := rfl

end

section
variable (s : State)

@[simp] theorem State.overrunCmd_cmd : (State.overrunCmd s).cmd = s.cmd := rfl
@[simp] theorem State.overrunCmd_data0 : (State.overrunCmd s).data0 = s.data0 := rfl
@[simp] theorem State.overrunCmd_res0 : (State.overrunCmd s).res0 = s.res0 := rfl
@[simp] theorem State.overrunCmd_res1 : (State.overrunCmd s).res1 = s.res1 := rfl
@[simp] theorem State.overrunCmd_res2 : (State.overrunCmd s).res2 = s.res2 := rfl
@[simp] theorem State.overrunCmd_res3 : (State.overrunCmd s).res3 = s.res3 := rfl
@[simp] theorem State.overrunCmd_errinfo : (State.overrunCmd s).errinfo = s.errinfo := rfl
@[simp] theorem State.overrunCmd_errcode : (State.overrunCmd s).errcode = s.errcode := rfl
@[simp] theorem State.overrunCmd_overrun : (State.overrunCmd s).overrun = true := rfl
@[simp] theorem State.overrunCmd_decMidpath : (State.overrunCmd s).decMidpath = s.decMidpath := rfl
@[simp] theorem State.overrunCmd_codesValid : (State.overrunCmd s).codesValid = s.codesValid := rfl
@[simp] theorem State.overrunCmd_encNsym : (State.overrunCmd s).encNsym = s.encNsym := rfl
@[simp] theorem State.overrunCmd_encNbit : (State.overrunCmd s).encNbit = s.encNbit := rfl
@[simp] theorem State.overrunCmd_decNbit : (State.overrunCmd s).decNbit = s.decNbit := rfl
@[simp] theorem State.overrunCmd_decNsym : (State.overrunCmd s).decNsym = s.decNsym := rfl
@[simp] theorem State.overrunCmd_freq : (State.overrunCmd s).freq = s.freq := rfl
@[simp] theorem State.overrunCmd_node : (State.overrunCmd s).node = s.node := rfl
@[simp] theorem State.overrunCmd_treeSize : (State.overrunCmd s).treeSize = s.treeSize := rfl
@[simp] theorem State.overrunCmd_root : (State.overrunCmd s).root = s.root := rfl
@[simp] theorem State.overrunCmd_len : (State.overrunCmd s).len = s.len := rfl
@[simp] theorem State.overrunCmd_code : (State.overrunCmd s).code = s.code := rfl
@[simp] theorem State.overrunCmd_seq : (State.overrunCmd s).seq = s.seq := rfl
@[simp] theorem State.overrunCmd_lcmd : (State.overrunCmd s).lcmd = s.lcmd := rfl
@[simp] theorem State.overrunCmd_ldata : (State.overrunCmd s).ldata = s.ldata := rfl
@[simp] theorem State.overrunCmd_decPtr : (State.overrunCmd s).decPtr = s.decPtr := rfl
@[simp] theorem State.overrunCmd_qSymIn : (State.overrunCmd s).qSymIn = s.qSymIn := rfl
@[simp] theorem State.overrunCmd_qBitIn : (State.overrunCmd s).qBitIn = s.qBitIn := rfl
@[simp] theorem State.overrunCmd_rBitOut : (State.overrunCmd s).rBitOut = s.rBitOut := rfl
@[simp] theorem State.overrunCmd_rSymOut : (State.overrunCmd s).rSymOut = s.rSymOut := rfl
@[simp] theorem State.overrunCmd_outCap : (State.overrunCmd s).outCap = s.outCap := rfl
@[simp] theorem State.overrunCmd_draws : (State.overrunCmd s).draws = s.draws := rfl
@[simp] theorem State.overrunCmd_program : (State.overrunCmd s).program = s.program := rfl
@[simp] theorem State.overrunCmd_sched : (State.overrunCmd s).sched = s.sched := rfl
@[simp] theorem State.overrunCmd_rdata : (State.overrunCmd s).rdata = s.rdata := rfl
@[simp] theorem State.overrunCmd_got : (State.overrunCmd s).got = s.got := rfl

end

section
variable (s : State)

@[simp] theorem State.blockReset_cmd : (State.blockReset s).cmd = 0 := rfl
@[simp] theorem State.blockReset_data0 : (State.blockReset s).data0 = 0 := rfl
@[simp] theorem State.blockReset_res0 : (State.blockReset s).res0 = 0 := rfl
@[simp] theorem State.blockReset_res1 : (State.blockReset s).res1 = 0 := rfl
@[simp] theorem State.blockReset_res2 : (State.blockReset s).res2 = 0 := rfl
@[simp] theorem State.blockReset_res3 : (State.blockReset s).res3 = 0 := rfl
@[simp] theorem State.blockReset_errinfo : (State.blockReset s).errinfo = 0 := rfl
@[simp] theorem State.blockReset_errcode : (State.blockReset s).errcode = 0 := rfl
@[simp] theorem State.blockReset_overrun : (State.blockReset s).overrun = false := rfl
@[simp] theorem State.blockReset_decMidpath : (State.blockReset s).decMidpath = false := rfl
@[simp] theorem State.blockReset_codesValid : (State.blockReset s).codesValid = false := rfl
@[simp] theorem State.blockReset_encNsym : (State.blockReset s).encNsym = 0 := rfl
@[simp] theorem State.blockReset_encNbit : (State.blockReset s).encNbit = 0 := rfl
@[simp] theorem State.blockReset_decNbit : (State.blockReset s).decNbit = 0 := rfl
@[simp] theorem State.blockReset_decNsym : (State.blockReset s).decNsym = 0 := rfl
@[simp] theorem State.blockReset_freq : (State.blockReset s).freq = [] := rfl
@[simp] theorem State.blockReset_node : (State.blockReset s).node = [] := rfl
@[simp] theorem State.blockReset_treeSize : (State.blockReset s).treeSize = 0 := rfl
@[simp] theorem State.blockReset_root : (State.blockReset s).root = 0 := rfl
@[simp] theorem State.blockReset_len : (State.blockReset s).len = [] := rfl
@[simp] theorem State.blockReset_code : (State.blockReset s).code = [] := rfl
@[simp] theorem State.blockReset_seq : (State.blockReset s).seq = .idle := rfl
@[simp] theorem State.blockReset_lcmd : (State.blockReset s).lcmd = 0 := rfl
@[simp] theorem State.blockReset_ldata : (State.blockReset s).ldata = 0 := rfl
@[simp] theorem State.blockReset_decPtr : (State.blockReset s).decPtr = 0 := rfl
@[simp] theorem State.blockReset_qSymIn : (State.blockReset s).qSymIn = s.qSymIn := rfl
@[simp] theorem State.blockReset_qBitIn : (State.blockReset s).qBitIn = s.qBitIn := rfl
@[simp] theorem State.blockReset_rBitOut : (State.blockReset s).rBitOut = s.rBitOut := rfl
@[simp] theorem State.blockReset_rSymOut : (State.blockReset s).rSymOut = s.rSymOut := rfl
@[simp] theorem State.blockReset_outCap : (State.blockReset s).outCap = s.outCap := rfl
@[simp] theorem State.blockReset_draws : (State.blockReset s).draws = s.draws := rfl
@[simp] theorem State.blockReset_program : (State.blockReset s).program = s.program := rfl
@[simp] theorem State.blockReset_sched : (State.blockReset s).sched = s.sched := rfl
@[simp] theorem State.blockReset_rdata : (State.blockReset s).rdata = s.rdata := rfl
@[simp] theorem State.blockReset_got : (State.blockReset s).got = s.got := rfl

end

section
variable (s : State) (t : OutBitToken)

@[simp] theorem State.putBitOut_cmd : (State.putBitOut t s).cmd = s.cmd := rfl
@[simp] theorem State.putBitOut_data0 : (State.putBitOut t s).data0 = s.data0 := rfl
@[simp] theorem State.putBitOut_res0 : (State.putBitOut t s).res0 = s.res0 := rfl
@[simp] theorem State.putBitOut_res1 : (State.putBitOut t s).res1 = s.res1 := rfl
@[simp] theorem State.putBitOut_res2 : (State.putBitOut t s).res2 = s.res2 := rfl
@[simp] theorem State.putBitOut_res3 : (State.putBitOut t s).res3 = s.res3 := rfl
@[simp] theorem State.putBitOut_errinfo : (State.putBitOut t s).errinfo = s.errinfo := rfl
@[simp] theorem State.putBitOut_errcode : (State.putBitOut t s).errcode = s.errcode := rfl
@[simp] theorem State.putBitOut_overrun : (State.putBitOut t s).overrun = s.overrun := rfl
@[simp] theorem State.putBitOut_decMidpath : (State.putBitOut t s).decMidpath = s.decMidpath := rfl
@[simp] theorem State.putBitOut_codesValid : (State.putBitOut t s).codesValid = s.codesValid := rfl
@[simp] theorem State.putBitOut_encNsym : (State.putBitOut t s).encNsym = s.encNsym := rfl
@[simp] theorem State.putBitOut_encNbit : (State.putBitOut t s).encNbit = s.encNbit := rfl
@[simp] theorem State.putBitOut_decNbit : (State.putBitOut t s).decNbit = s.decNbit := rfl
@[simp] theorem State.putBitOut_decNsym : (State.putBitOut t s).decNsym = s.decNsym := rfl
@[simp] theorem State.putBitOut_freq : (State.putBitOut t s).freq = s.freq := rfl
@[simp] theorem State.putBitOut_node : (State.putBitOut t s).node = s.node := rfl
@[simp] theorem State.putBitOut_treeSize : (State.putBitOut t s).treeSize = s.treeSize := rfl
@[simp] theorem State.putBitOut_root : (State.putBitOut t s).root = s.root := rfl
@[simp] theorem State.putBitOut_len : (State.putBitOut t s).len = s.len := rfl
@[simp] theorem State.putBitOut_code : (State.putBitOut t s).code = s.code := rfl
@[simp] theorem State.putBitOut_seq : (State.putBitOut t s).seq = s.seq := rfl
@[simp] theorem State.putBitOut_lcmd : (State.putBitOut t s).lcmd = s.lcmd := rfl
@[simp] theorem State.putBitOut_ldata : (State.putBitOut t s).ldata = s.ldata := rfl
@[simp] theorem State.putBitOut_decPtr : (State.putBitOut t s).decPtr = s.decPtr := rfl
@[simp] theorem State.putBitOut_qSymIn : (State.putBitOut t s).qSymIn = s.qSymIn := rfl
@[simp] theorem State.putBitOut_qBitIn : (State.putBitOut t s).qBitIn = s.qBitIn := rfl
@[simp] theorem State.putBitOut_rBitOut : (State.putBitOut t s).rBitOut = s.rBitOut ++ [t] := rfl
@[simp] theorem State.putBitOut_rSymOut : (State.putBitOut t s).rSymOut = s.rSymOut := rfl
@[simp] theorem State.putBitOut_outCap : (State.putBitOut t s).outCap = s.outCap := rfl
@[simp] theorem State.putBitOut_draws : (State.putBitOut t s).draws = s.draws := rfl
@[simp] theorem State.putBitOut_program : (State.putBitOut t s).program = s.program := rfl
@[simp] theorem State.putBitOut_sched : (State.putBitOut t s).sched = s.sched := rfl
@[simp] theorem State.putBitOut_rdata : (State.putBitOut t s).rdata = s.rdata := rfl
@[simp] theorem State.putBitOut_got : (State.putBitOut t s).got = s.got := rfl

end

section
variable (s : State) (t : SymToken)

@[simp] theorem State.putSymOut_cmd : (State.putSymOut t s).cmd = s.cmd := rfl
@[simp] theorem State.putSymOut_data0 : (State.putSymOut t s).data0 = s.data0 := rfl
@[simp] theorem State.putSymOut_res0 : (State.putSymOut t s).res0 = s.res0 := rfl
@[simp] theorem State.putSymOut_res1 : (State.putSymOut t s).res1 = s.res1 := rfl
@[simp] theorem State.putSymOut_res2 : (State.putSymOut t s).res2 = s.res2 := rfl
@[simp] theorem State.putSymOut_res3 : (State.putSymOut t s).res3 = s.res3 := rfl
@[simp] theorem State.putSymOut_errinfo : (State.putSymOut t s).errinfo = s.errinfo := rfl
@[simp] theorem State.putSymOut_errcode : (State.putSymOut t s).errcode = s.errcode := rfl
@[simp] theorem State.putSymOut_overrun : (State.putSymOut t s).overrun = s.overrun := rfl
@[simp] theorem State.putSymOut_decMidpath : (State.putSymOut t s).decMidpath = s.decMidpath := rfl
@[simp] theorem State.putSymOut_codesValid : (State.putSymOut t s).codesValid = s.codesValid := rfl
@[simp] theorem State.putSymOut_encNsym : (State.putSymOut t s).encNsym = s.encNsym := rfl
@[simp] theorem State.putSymOut_encNbit : (State.putSymOut t s).encNbit = s.encNbit := rfl
@[simp] theorem State.putSymOut_decNbit : (State.putSymOut t s).decNbit = s.decNbit := rfl
@[simp] theorem State.putSymOut_decNsym : (State.putSymOut t s).decNsym = s.decNsym := rfl
@[simp] theorem State.putSymOut_freq : (State.putSymOut t s).freq = s.freq := rfl
@[simp] theorem State.putSymOut_node : (State.putSymOut t s).node = s.node := rfl
@[simp] theorem State.putSymOut_treeSize : (State.putSymOut t s).treeSize = s.treeSize := rfl
@[simp] theorem State.putSymOut_root : (State.putSymOut t s).root = s.root := rfl
@[simp] theorem State.putSymOut_len : (State.putSymOut t s).len = s.len := rfl
@[simp] theorem State.putSymOut_code : (State.putSymOut t s).code = s.code := rfl
@[simp] theorem State.putSymOut_seq : (State.putSymOut t s).seq = s.seq := rfl
@[simp] theorem State.putSymOut_lcmd : (State.putSymOut t s).lcmd = s.lcmd := rfl
@[simp] theorem State.putSymOut_ldata : (State.putSymOut t s).ldata = s.ldata := rfl
@[simp] theorem State.putSymOut_decPtr : (State.putSymOut t s).decPtr = s.decPtr := rfl
@[simp] theorem State.putSymOut_qSymIn : (State.putSymOut t s).qSymIn = s.qSymIn := rfl
@[simp] theorem State.putSymOut_qBitIn : (State.putSymOut t s).qBitIn = s.qBitIn := rfl
@[simp] theorem State.putSymOut_rBitOut : (State.putSymOut t s).rBitOut = s.rBitOut := rfl
@[simp] theorem State.putSymOut_rSymOut : (State.putSymOut t s).rSymOut = s.rSymOut ++ [t] := rfl
@[simp] theorem State.putSymOut_outCap : (State.putSymOut t s).outCap = s.outCap := rfl
@[simp] theorem State.putSymOut_draws : (State.putSymOut t s).draws = s.draws := rfl
@[simp] theorem State.putSymOut_program : (State.putSymOut t s).program = s.program := rfl
@[simp] theorem State.putSymOut_sched : (State.putSymOut t s).sched = s.sched := rfl
@[simp] theorem State.putSymOut_rdata : (State.putSymOut t s).rdata = s.rdata := rfl
@[simp] theorem State.putSymOut_got : (State.putSymOut t s).got = s.got := rfl

end

section
variable (s : State) (r : Reg)

@[simp] theorem State.busRead_cmd : (State.busRead r s).cmd = s.cmd := rfl
@[simp] theorem State.busRead_data0 : (State.busRead r s).data0 = s.data0 := rfl
@[simp] theorem State.busRead_res0 : (State.busRead r s).res0 = s.res0 := rfl
@[simp] theorem State.busRead_res1 : (State.busRead r s).res1 = s.res1 := rfl
@[simp] theorem State.busRead_res2 : (State.busRead r s).res2 = s.res2 := rfl
@[simp] theorem State.busRead_res3 : (State.busRead r s).res3 = s.res3 := rfl
@[simp] theorem State.busRead_errinfo : (State.busRead r s).errinfo = s.errinfo := rfl
@[simp] theorem State.busRead_errcode : (State.busRead r s).errcode = s.errcode := rfl
@[simp] theorem State.busRead_overrun : (State.busRead r s).overrun = s.overrun := rfl
@[simp] theorem State.busRead_decMidpath : (State.busRead r s).decMidpath = s.decMidpath := rfl
@[simp] theorem State.busRead_codesValid : (State.busRead r s).codesValid = s.codesValid := rfl
@[simp] theorem State.busRead_encNsym : (State.busRead r s).encNsym = s.encNsym := rfl
@[simp] theorem State.busRead_encNbit : (State.busRead r s).encNbit = s.encNbit := rfl
@[simp] theorem State.busRead_decNbit : (State.busRead r s).decNbit = s.decNbit := rfl
@[simp] theorem State.busRead_decNsym : (State.busRead r s).decNsym = s.decNsym := rfl
@[simp] theorem State.busRead_freq : (State.busRead r s).freq = s.freq := rfl
@[simp] theorem State.busRead_node : (State.busRead r s).node = s.node := rfl
@[simp] theorem State.busRead_treeSize : (State.busRead r s).treeSize = s.treeSize := rfl
@[simp] theorem State.busRead_root : (State.busRead r s).root = s.root := rfl
@[simp] theorem State.busRead_len : (State.busRead r s).len = s.len := rfl
@[simp] theorem State.busRead_code : (State.busRead r s).code = s.code := rfl
@[simp] theorem State.busRead_seq : (State.busRead r s).seq = s.seq := rfl
@[simp] theorem State.busRead_lcmd : (State.busRead r s).lcmd = s.lcmd := rfl
@[simp] theorem State.busRead_ldata : (State.busRead r s).ldata = s.ldata := rfl
@[simp] theorem State.busRead_decPtr : (State.busRead r s).decPtr = s.decPtr := rfl
@[simp] theorem State.busRead_qSymIn : (State.busRead r s).qSymIn = s.qSymIn := rfl
@[simp] theorem State.busRead_qBitIn : (State.busRead r s).qBitIn = s.qBitIn := rfl
@[simp] theorem State.busRead_rBitOut : (State.busRead r s).rBitOut = s.rBitOut := rfl
@[simp] theorem State.busRead_rSymOut : (State.busRead r s).rSymOut = s.rSymOut := rfl
@[simp] theorem State.busRead_outCap : (State.busRead r s).outCap = s.outCap := rfl
@[simp] theorem State.busRead_draws : (State.busRead r s).draws = s.draws := rfl
@[simp] theorem State.busRead_program : (State.busRead r s).program = s.program := rfl
@[simp] theorem State.busRead_sched : (State.busRead r s).sched = s.sched := rfl
@[simp] theorem State.busRead_rdata : (State.busRead r s).rdata = s.readReg r := rfl
@[simp] theorem State.busRead_got : (State.busRead r s).got = s.got := rfl

end

section
variable (s : State) (sel : Nat → Nat)

@[simp] theorem State.buildTree_cmd : (State.buildTree sel s).cmd = s.cmd := rfl
@[simp] theorem State.buildTree_data0 : (State.buildTree sel s).data0 = s.data0 := rfl
@[simp] theorem State.buildTree_res0 : (State.buildTree sel s).res0 = s.res0 := rfl
@[simp] theorem State.buildTree_res1 : (State.buildTree sel s).res1 = s.res1 := rfl
@[simp] theorem State.buildTree_res2 : (State.buildTree sel s).res2 = s.res2 := rfl
@[simp] theorem State.buildTree_res3 : (State.buildTree sel s).res3 = s.res3 := rfl
@[simp] theorem State.buildTree_errinfo : (State.buildTree sel s).errinfo = s.errinfo := rfl
@[simp] theorem State.buildTree_errcode : (State.buildTree sel s).errcode = s.errcode := rfl
@[simp] theorem State.buildTree_overrun : (State.buildTree sel s).overrun = s.overrun := rfl
@[simp] theorem State.buildTree_decMidpath : (State.buildTree sel s).decMidpath = s.decMidpath := rfl
@[simp] theorem State.buildTree_codesValid : (State.buildTree sel s).codesValid = false := rfl
@[simp] theorem State.buildTree_encNsym : (State.buildTree sel s).encNsym = s.encNsym := rfl
@[simp] theorem State.buildTree_encNbit : (State.buildTree sel s).encNbit = s.encNbit := rfl
@[simp] theorem State.buildTree_decNbit : (State.buildTree sel s).decNbit = s.decNbit := rfl
@[simp] theorem State.buildTree_decNsym : (State.buildTree sel s).decNsym = s.decNsym := rfl
@[simp] theorem State.buildTree_freq : (State.buildTree sel s).freq = s.freq := rfl
@[simp] theorem State.buildTree_node : (State.buildTree sel s).node = (Forest.mergeLoop sel (presentSyms s.freq).length (seedForest s.freq s.node s.draws)).node := rfl
@[simp] theorem State.buildTree_treeSize : (State.buildTree sel s).treeSize = Fin.ofNat 257 (presentSyms s.freq).length := rfl
@[simp] theorem State.buildTree_root : (State.buildTree sel s).root = (Forest.mergeLoop sel (presentSyms s.freq).length (seedForest s.freq s.node s.draws)).queue.headD 0 := rfl
@[simp] theorem State.buildTree_len : (State.buildTree sel s).len = [] := rfl
@[simp] theorem State.buildTree_code : (State.buildTree sel s).code = [] := rfl
@[simp] theorem State.buildTree_seq : (State.buildTree sel s).seq = s.seq := rfl
@[simp] theorem State.buildTree_lcmd : (State.buildTree sel s).lcmd = s.lcmd := rfl
@[simp] theorem State.buildTree_ldata : (State.buildTree sel s).ldata = s.ldata := rfl
@[simp] theorem State.buildTree_decPtr : (State.buildTree sel s).decPtr = s.decPtr := rfl
@[simp] theorem State.buildTree_qSymIn : (State.buildTree sel s).qSymIn = s.qSymIn := rfl
@[simp] theorem State.buildTree_qBitIn : (State.buildTree sel s).qBitIn = s.qBitIn := rfl
@[simp] theorem State.buildTree_rBitOut : (State.buildTree sel s).rBitOut = s.rBitOut := rfl
@[simp] theorem State.buildTree_rSymOut : (State.buildTree sel s).rSymOut = s.rSymOut := rfl
@[simp] theorem State.buildTree_outCap : (State.buildTree sel s).outCap = s.outCap := rfl
@[simp] theorem State.buildTree_draws : (State.buildTree sel s).draws = (Forest.mergeLoop sel (presentSyms s.freq).length (seedForest s.freq s.node s.draws)).draws := rfl
@[simp] theorem State.buildTree_program : (State.buildTree sel s).program = s.program := rfl
@[simp] theorem State.buildTree_sched : (State.buildTree sel s).sched = s.sched := rfl
@[simp] theorem State.buildTree_rdata : (State.buildTree sel s).rdata = s.rdata := rfl
@[simp] theorem State.buildTree_got : (State.buildTree sel s).got = s.got := rfl

end

section
variable (s : State) (e : CmdError)

@[simp] theorem State.raise_cmd : (State.raise e s).cmd = s.cmd := by cases e <;> rfl
@[simp] theorem State.raise_data0 : (State.raise e s).data0 = s.data0 := by cases e <;> rfl
@[simp] theorem State.raise_res0 : (State.raise e s).res0 = s.res0 := by cases e <;> rfl
@[simp] theorem State.raise_res1 : (State.raise e s).res1 = s.res1 := by cases e <;> rfl
@[simp] theorem State.raise_res2 : (State.raise e s).res2 = s.res2 := by cases e <;> rfl
@[simp] theorem State.raise_res3 : (State.raise e s).res3 = s.res3 := by cases e <;> rfl
@[simp] theorem State.raise_overrun : (State.raise e s).overrun = s.overrun := by cases e <;> rfl
@[simp] theorem State.raise_decMidpath : (State.raise e s).decMidpath = s.decMidpath := by cases e <;> rfl
@[simp] theorem State.raise_codesValid : (State.raise e s).codesValid = s.codesValid := by cases e <;> rfl
@[simp] theorem State.raise_encNsym : (State.raise e s).encNsym = s.encNsym := by cases e <;> rfl
@[simp] theorem State.raise_encNbit : (State.raise e s).encNbit = s.encNbit := by cases e <;> rfl
@[simp] theorem State.raise_decNbit : (State.raise e s).decNbit = s.decNbit := by cases e <;> rfl
@[simp] theorem State.raise_decNsym : (State.raise e s).decNsym = s.decNsym := by cases e <;> rfl
@[simp] theorem State.raise_freq : (State.raise e s).freq = s.freq := by cases e <;> rfl
@[simp] theorem State.raise_node : (State.raise e s).node = s.node := by cases e <;> rfl
@[simp] theorem State.raise_treeSize : (State.raise e s).treeSize = s.treeSize := by cases e <;> rfl
@[simp] theorem State.raise_root : (State.raise e s).root = s.root := by cases e <;> rfl
@[simp] theorem State.raise_len : (State.raise e s).len = s.len := by cases e <;> rfl
@[simp] theorem State.raise_code : (State.raise e s).code = s.code := by cases e <;> rfl
@[simp] theorem State.raise_lcmd : (State.raise e s).lcmd = s.lcmd := by cases e <;> rfl
@[simp] theorem State.raise_ldata : (State.raise e s).ldata = s.ldata := by cases e <;> rfl
@[simp] theorem State.raise_decPtr : (State.raise e s).decPtr = s.decPtr := by cases e <;> rfl
@[simp] theorem State.raise_qSymIn : (State.raise e s).qSymIn = s.qSymIn := by cases e <;> rfl
@[simp] theorem State.raise_qBitIn : (State.raise e s).qBitIn = s.qBitIn := by cases e <;> rfl
@[simp] theorem State.raise_rBitOut : (State.raise e s).rBitOut = s.rBitOut := by cases e <;> rfl
@[simp] theorem State.raise_rSymOut : (State.raise e s).rSymOut = s.rSymOut := by cases e <;> rfl
@[simp] theorem State.raise_outCap : (State.raise e s).outCap = s.outCap := by cases e <;> rfl
@[simp] theorem State.raise_draws : (State.raise e s).draws = s.draws := by cases e <;> rfl
@[simp] theorem State.raise_program : (State.raise e s).program = s.program := by cases e <;> rfl
@[simp] theorem State.raise_sched : (State.raise e s).sched = s.sched := by cases e <;> rfl
@[simp] theorem State.raise_rdata : (State.raise e s).rdata = s.rdata := by cases e <;> rfl
@[simp] theorem State.raise_got : (State.raise e s).got = s.got := by cases e <;> rfl

end

@[simp] theorem State.raise_illegal (s : State) : s.raise .illegal = s.complete 1 := rfl

@[simp] theorem State.raise_range (s : State) : s.raise .range = s.complete 2 := rfl

@[simp] theorem State.raise_noCode_errinfo (s : State) (c : Sym) : (s.raise (.noCode c)).errinfo = c.setWidth 32 := rfl

@[simp] theorem State.raise_noCode_errcode (s : State) (c : Sym) : (s.raise (.noCode c)).errcode = s.errcode := rfl

@[simp] theorem State.raise_noCode_seq (s : State) (c : Sym) : (s.raise (.noCode c)).seq = .encClose 3 := rfl

end Sys2Proof.Machine
end

