-- ==== Sys2Proof/Laws/Ops.lean ====
section
/-! SUPPORT. What each shared operation does, said once: the table accessors after each update, the ports, the bus write,
and the flags. -/

namespace Sys2Proof.Machine

theorem State.freqAt_setFreq (s : State) (c b : Sym) (n : Word) :
    (s.setFreq c n).freqAt b = if c = b then n else s.freqAt b := by
  simp [State.freqAt, BitVec.toNat_inj]

@[simp] theorem State.freqAt_clear (s : State) (b : Sym) : State.freqAt { s with freq := [] } b = 0 := rfl

/-- A table read sees only its table. -/
theorem State.freqAt_congr {s t : State} (h : t.freq = s.freq) (b : Sym) : t.freqAt b = s.freqAt b := by
  simp [State.freqAt, h]

theorem State.lenAt_congr {s t : State} (h : t.len = s.len) (b : Sym) : t.lenAt b = s.lenAt b := by
  simp [State.lenAt, h]

theorem State.codeAt_congr {s t : State} (h : t.code = s.code) (b : Sym) : t.codeAt b = s.codeAt b := by
  simp [State.codeAt, h]

theorem State.nodeAt_congr {s t : State} (h : t.node = s.node) (i : NodeIx) : t.nodeAt i = s.nodeAt i := by
  simp [State.nodeAt, h]

/-- BUSY reads 0 exactly in IDLE. -/
theorem State.busy_eq_false_iff (s : State) : s.busy = false ↔ s.seq = .idle := by
  unfold State.busy; split <;> simp_all

theorem State.busy_eq_true_iff (s : State) : s.busy = true ↔ s.seq ≠ .idle := by
  rw [← Bool.not_eq_false, State.busy_eq_false_iff]

/-- A buffer has room for one more token. -/
theorem hasRoom_eq_true_iff (o : Option Nat) (n : Nat) : hasRoom o n = true ↔ ∀ c, o = some c → n < c := by
  cases o <;> simp [hasRoom]

/-- Take(SYM_IN): the head token goes, and nothing else changes (R42). -/
theorem State.takeSymIn_eq_some_iff (s t : State) (k : SymToken) :
    s.takeSymIn = some (k, t) ↔ ∃ q, s.qSymIn = k :: q ∧ t = { s with qSymIn := q } := by
  unfold State.takeSymIn; split <;> simp_all [eq_comm]

theorem State.takeSymIn_eq_none_iff (s : State) : s.takeSymIn = none ↔ s.qSymIn = [] := by
  unfold State.takeSymIn; split <;> simp_all

/-- Take(BIT_IN) (R42). -/
theorem State.takeBitIn_eq_some_iff (s t : State) (k : BitToken) :
    s.takeBitIn = some (k, t) ↔ ∃ q, s.qBitIn = k :: q ∧ t = { s with qBitIn := q } := by
  unfold State.takeBitIn; split <;> simp_all [eq_comm]

theorem State.takeBitIn_eq_none_iff (s : State) : s.takeBitIn = none ↔ s.qBitIn = [] := by
  unfold State.takeBitIn; split <;> simp_all

/-- Everything a bus write can do (R24, R25, R27, R45, R63). -/
theorem State.writeReg_cases (s : State) (r : Reg) (v : Word) :
    s.writeReg r v = s ∨ (r = .cmd ∧ s.busy = true ∧ s.writeReg r v = s.overrunCmd) ∨
    (r = .cmd ∧ s.busy = false ∧ s.writeReg r v = s.accept v) ∨
    (r = .status ∧ v.getLsbD 8 = true ∧ s.writeReg r v = { s with overrun := false }) ∨
    (r = .data0 ∧ s.writeReg r v = { s with data0 := v }) ∨
    (r = .srst ∧ v.getLsbD 0 = true ∧ s.writeReg r v = s.blockReset) := by
  cases r
  case cmd => cases h : s.busy <;> simp [State.writeReg, h]
  case status =>
    by_cases h : v.getLsbD 8 = true
    · exact .inr (.inr (.inr (.inl ⟨rfl, h, if_pos h⟩)))
    · exact .inl (if_neg h)
  case data0 => exact .inr (.inr (.inr (.inr (.inl ⟨rfl, rfl⟩))))
  case srst =>
    by_cases h : v.getLsbD 0 = true
    · exact .inr (.inr (.inr (.inr (.inr ⟨rfl, h, if_pos h⟩))))
    · exact .inl (if_neg h)
  all_goals exact .inl rfl

/-- Everything a GET can do (R43). -/
theorem State.getToken_cases (s : State) (p : OutPort) :
    s.getToken p = s ∨ (∃ t r, s.rBitOut = t :: r ∧ s.getToken p = { s with rBitOut := r, got := some (.bitOut t) }) ∨
    (∃ t r, s.rSymOut = t :: r ∧ s.getToken p = { s with rSymOut := r, got := some (.symOut t) }) := by
  cases p
  · cases h : s.rBitOut <;> simp [State.getToken, h]
  · cases h : s.rSymOut <;> simp [State.getToken, h]

/-- The kinds of change a host operation makes, said once (R21): nothing, a bus write of R24, R25, R27 or R45, the data
of a read, tokens of one port, or a reset. -/
theorem hostOp_cases (op : HostOp) (s : State) :
    (∃ r v, op = .wr r v ∧ hostOp op s = s.writeReg r v) ∨
    (∃ r, hostOp op s = s.busRead r) ∨
    (∃ q, hostOp op s = { s with qSymIn := q }) ∨
    (∃ q, hostOp op s = { s with qBitIn := q }) ∨
    (∃ p, hostOp op s = s.getToken p) ∨
    (op = .reset ∧ hostOp op s = s.blockReset) := by
  cases op with
  | wr r v => exact .inl ⟨r, v, rfl, rfl⟩
  | rd r => exact .inr (.inl ⟨r, rfl⟩)
  | poll => exact .inr (.inl ⟨.status, rfl⟩)
  | putSym t => exact .inr (.inr (.inl ⟨_, rfl⟩))
  | putBit t => exact .inr (.inr (.inr (.inl ⟨_, rfl⟩)))
  | get p => exact .inr (.inr (.inr (.inr (.inl ⟨p, rfl⟩))))
  | drain p => exact .inr (.inr (.inr (.inr (.inl ⟨p, rfl⟩))))
  | flush p =>
    cases p
    · exact .inr (.inr (.inl ⟨_, rfl⟩))
    · exact .inr (.inr (.inr (.inl ⟨_, rfl⟩)))
  | reset => exact .inr (.inr (.inr (.inr (.inr ⟨rfl, rfl⟩))))

end Sys2Proof.Machine
end

