-- ==== Sys2Proof/Machine/HostRun.lean ====
section
/-! DEFINITION. The output half of a host program's encoding (R92 of spec/30_encoding.md): the tokens the host removes
from BIT_OUT and SYM_OUT in a run, which spec/95_test_vectors.md lists beside those it offers. -/

namespace Sys2Proof.Machine

/-- The next step is the host's: `step`'s own choice of the agent (log 1). -/
def hostMoves (s : State) : Bool :=
  match s.sched with
  | .core :: _ => false
  | .host :: _ => true
  | [] => !coreEnabled s

/-- The head token of an output port (R43). -/
def State.headToken (p : OutPort) (s : State) : Option GotToken :=
  match p with
  | .bitOut => s.rBitOut.head?.map .bitOut
  | .symOut => s.rSymOut.head?.map .symOut

/-- The token an operation's step removes from an output port, if it removes one (R43, R89, R91). -/
def HostOp.removes (op : HostOp) (s : State) : Option GotToken :=
  match op with
  | .get p => s.headToken p
  | .drain p => s.headToken p
  | .wr _ _ => none
  | .rd _ => none
  | .poll => none
  | .putSym _ => none
  | .putBit _ => none
  | .flush _ => none
  | .reset => none

/-- The token the machine's next step removes from an output port, if it removes one. -/
def State.removesNext (s : State) : Option GotToken :=
  if hostMoves s then
    match s.program with
    | [] => none
    | op :: _ => op.removes s
  else none

/-- The tokens the host removes in the next `k` steps, in order. -/
def tokensRemoved : Nat → State → List GotToken
  | 0, _ => []
  | k + 1, s =>
    match step s with
    | .next t => s.removesNext.toList ++ tokensRemoved k t
    | .fault _ => []
    | .refused _ => []

/-- R92: the encoding of the program the host is about to run, with the tokens it removes within `k` steps. -/
def State.encodingOfRun (k : Nat) (s : State) : ProgramEncoding := programEncoding s.program (tokensRemoved k s)

end Sys2Proof.Machine
end

