-- ==== Sys2Proof/Laws/HostRun.lean ====
section
/-! SUPPORT. The tokens a run records as removed are the tokens that leave the output ports. -/

namespace Sys2Proof.Machine

/-- A bus write moves no token of an output port (R65). -/
theorem State.writeReg_outPorts (s : State) (r : Reg) (v : Word) :
    (s.writeReg r v).rBitOut = s.rBitOut ∧ (s.writeReg r v).rSymOut = s.rSymOut := by
  rcases State.writeReg_cases s r v with h | ⟨_, _, h⟩ | ⟨_, _, h⟩ | ⟨_, _, h⟩ | ⟨_, h⟩ | ⟨_, _, h⟩ <;> rw [h] <;>
    exact ⟨rfl, rfl⟩

/-- A GET takes the token it removes, and just that one, from the head of its port (R43). -/
theorem State.getToken_spec (p : OutPort) (s : State) :
    (∀ t, s.headToken p = some (.bitOut t) →
      s.rBitOut = t :: (s.getToken p).rBitOut ∧ (s.getToken p).rSymOut = s.rSymOut) ∧
    (∀ t, s.headToken p = some (.symOut t) →
      s.rSymOut = t :: (s.getToken p).rSymOut ∧ (s.getToken p).rBitOut = s.rBitOut) ∧
    (s.headToken p = none → s.getToken p = s) := by
  cases p
  · rcases h : s.rBitOut with _ | ⟨t, r⟩ <;> simp [State.headToken, State.getToken, h]
  · rcases h : s.rSymOut with _ | ⟨t, r⟩ <;> simp [State.headToken, State.getToken, h]

/-- An operation that removes no token leaves both output ports as they are. -/
theorem HostOp.removes_none (op : HostOp) (s : State) (h : op.removes s = none) :
    (hostOp op s).rBitOut = s.rBitOut ∧ (hostOp op s).rSymOut = s.rSymOut := by
  cases op with
  | wr r v => exact s.writeReg_outPorts r v
  | get p => rw [show hostOp (.get p) s = s from (s.getToken_spec p).2.2 h]; exact ⟨rfl, rfl⟩
  | drain p => rw [show hostOp (.drain p) s = s from (s.getToken_spec p).2.2 h]; exact ⟨rfl, rfl⟩
  | flush p => cases p <;> exact ⟨rfl, rfl⟩
  | _ => exact ⟨rfl, rfl⟩

/-- An operation that removes a token is a GET or a DRAIN of the port the token came from. -/
theorem HostOp.removes_some (op : HostOp) (s : State) (t : GotToken) (h : op.removes s = some t) :
    ∃ p, s.headToken p = some t ∧ hostOp op s = s.getToken p := by
  cases op with
  | get p => exact ⟨p, h, rfl⟩
  | drain p => exact ⟨p, h, rfl⟩
  | _ => cases h

/-- `hostMoves` is `step`'s choice: on the host's turn the step is the host's, with the schedule's head consumed. -/
theorem step_of_hostMoves (s : State) (h : hostMoves s = true) :
    step s = .next (hostStep { s with sched := s.sched.tail }) := by
  unfold hostMoves at h
  unfold step
  rcases hs : s.sched with _ | ⟨_ | _, rest⟩ <;> simp only [hs] at h ⊢
  · rw [if_neg (by simpa using h), List.tail_nil, ← hs]
  · rfl
  · cases h

/-- On the core's turn no token is recorded. -/
theorem State.removesNext_of_not_hostMoves (s : State) (h : hostMoves s = false) : s.removesNext = none := by
  simp [State.removesNext, h]

/-- The record of one more step. -/
theorem tokensRemoved_succ (k : Nat) (s t : State) (h : step s = .next t) :
    tokensRemoved (k + 1) s = s.removesNext.toList ++ tokensRemoved k t := by
  simp only [tokensRemoved, h]

end Sys2Proof.Machine
end

