-- ==== Sys2Proof/Laws/PerInstr.lean ====
section
/-! SUPPORT. Statements about every command as syntax, one lemma per constructor (LAWS.json). WordLegal: the word that
encodes a command is legal (R82 to R84) and carries the command's own OP in bits [31:28]. -/

namespace Sys2Proof.Laws.WordLegal

/-- The encoded word is well-formed and its fields are the command's. -/
def Statement (i : Instr) : Prop :=
  CommandWord.ofWord (encode i) = i.fields ∧ (CommandWord.ofWord (encode i)).wellFormed = true

/-- The three fields of a word are those it was made of. -/
theorem ofWord_toWord (c : CommandWord) : CommandWord.ofWord c.toWord = c := by
  obtain ⟨op, rsv, arg⟩ := c
  simp only [CommandWord.ofWord, CommandWord.toWord, CommandWord.mk.injEq]
  refine ⟨?_, ?_, ?_⟩ <;> apply BitVec.eq_of_getLsbD_eq <;> intro i hi <;>
    simp only [BitVec.getLsbD_extractLsb', BitVec.getLsbD_append, hi, decide_true, Bool.true_and]
  · rw [if_neg (by omega), if_neg (by omega)]; congr 1; omega
  · rw [if_neg (by omega), if_pos (by omega)]; congr 1; omega
  · rw [if_pos (by omega)]; congr 1; omega

/-- The high slice of a concatenation whose high part is 0. -/
theorem high_slice_zero {m n : Nat} (v : BitVec n) : (0#m ++ v).extractLsb' n m = 0#m := by
  apply BitVec.eq_of_getLsbD_eq
  intro i hi
  simp [BitVec.getLsbD_append]

/-- The word of fields that pass the checks is legal. -/
theorem of_fields {i : Instr} (h : i.fields.wellFormed = true) : Statement i := by
  have hf : CommandWord.ofWord (encode i) = i.fields := ofWord_toWord i.fields
  exact ⟨hf, by rw [hf]; exact h⟩

theorem nop : Statement .nop := of_fields (by decide)

theorem clrf : Statement .clrf := of_fields (by decide)

theorem wrf (sym : Sym) : Statement (.wrf sym) :=
  have h : CommandWord.argZeros (Instr.fields (.wrf sym)) = true :=
    decide_eq_true (high_slice_zero (m := 8) sym)
  of_fields (by simp only [CommandWord.wellFormed, CommandWord.zerosHold, h]; rfl)

theorem rdf (sym : Sym) : Statement (.rdf sym) :=
  have h : CommandWord.argZeros (Instr.fields (.rdf sym)) = true :=
    decide_eq_true (high_slice_zero (m := 8) sym)
  of_fields (by simp only [CommandWord.wellFormed, CommandWord.zerosHold, h]; rfl)

theorem build : Statement .build := of_fields (by decide)

theorem genc : Statement .genc := of_fields (by decide)

theorem enc : Statement .enc := of_fields (by decide)

theorem dec : Statement .dec := of_fields (by decide)

theorem rdcode (sym : Sym) (widx : BitVec 8) : Statement (.rdcode sym widx) := of_fields rfl

theorem rdnode (nidx : BitVec 9) : Statement (.rdnode nidx) :=
  have h : CommandWord.argZeros (Instr.fields (.rdnode nidx)) = true :=
    decide_eq_true (high_slice_zero (m := 7) nidx)
  of_fields (by simp only [CommandWord.wellFormed, CommandWord.zerosHold, h]; rfl)

end Sys2Proof.Laws.WordLegal
end

