-- ==== Sys2Proof/Laws/Steps.lean ====
section
/-! SUPPORT. What one turn can do, said once: each core step of ENC and DEC, the core's turn, the host's turn and the
machine's step. -/

namespace Sys2Proof.Machine

/-- R161, R162: what the core step at ENC_FETCH can do. -/
theorem encFetchStep_cases (s : State) :
    (s.qSymIn = [] ∧ encFetchStep s = s) ∨
    (∃ q, s.qSymIn = .fin :: q ∧ encFetchStep s = { s with qSymIn := q, seq := .encClose 0 }) ∨
    (∃ c q, s.qSymIn = .sym c :: q ∧ s.lenAt c = 0 ∧
      encFetchStep s = { s with qSymIn := q, errinfo := c.setWidth 32, seq := .encClose 3 }) ∨
    (∃ c q, s.qSymIn = .sym c :: q ∧ s.lenAt c ≠ 0 ∧
      encFetchStep s = { s with qSymIn := q, seq := .encBit c ((s.lenAt c).toNat - 1) }) := by
  unfold encFetchStep State.takeSymIn
  rcases h : s.qSymIn with _ | ⟨_ | _, q⟩
  · simp
  · rename_i c
    by_cases hl : s.lenAt c = 0
    · exact .inr (.inr (.inl ⟨c, q, rfl, hl, if_pos hl⟩))
    · exact .inr (.inr (.inr ⟨c, q, rfl, hl, if_neg hl⟩))
  · simp [State.setSeq]

/-- R163: what the core step at ENC_BIT(c, j) can do. -/
theorem encBitStep_cases (c : Sym) (j : Nat) (s : State) :
    (s.bitOutReady = false ∧ encBitStep c j s = s) ∨
    (s.bitOutReady = true ∧ j = 0 ∧ encBitStep c j s =
      { s with rBitOut := s.rBitOut ++ [.bit (codeBit (s.codeAt c) j)], encNbit := s.encNbit + 1,
               encNsym := s.encNsym + 1, seq := .encFetch }) ∨
    (s.bitOutReady = true ∧ ∃ j', j = j' + 1 ∧ encBitStep c j s =
      { s with rBitOut := s.rBitOut ++ [.bit (codeBit (s.codeAt c) j)], encNbit := s.encNbit + 1,
               seq := .encBit c j' }) := by
  unfold encBitStep
  cases h : s.bitOutReady <;> cases j <;> simp [State.putBitOut, State.setSeq]

/-- R164: what the core step at ENC_CLOSE(e) can do. -/
theorem encCloseStep_cases (e : ErrCode) (s : State) :
    (s.bitOutReady = false ∧ encCloseStep e s = s) ∨
    (s.bitOutReady = true ∧
      encCloseStep e s = { s with rBitOut := s.rBitOut ++ [.close], errcode := e, seq := .idle }) := by
  unfold encCloseStep
  cases h : s.bitOutReady <;> simp [State.putBitOut, State.complete]

/-- R182: what DEC's fetch can do on the singleton tree. -/
theorem decFetchSingleton_cases (s : State) :
    (s.qBitIn = [] ∧ decFetchSingleton s = .next s) ∨
    (∃ q, s.qBitIn = .fin :: q ∧ decFetchSingleton s = .next { s with qBitIn := q, seq := .decClose }) ∨
    (∃ b q c w, s.qBitIn = .bit b :: q ∧ s.nodeAt s.root = .leaf c w ∧
      decFetchSingleton s = .next { s with qBitIn := q, decNbit := s.decNbit + 1, seq := .decEmit c }) ∨
    (∃ b q l r w, s.qBitIn = .bit b :: q ∧ s.nodeAt s.root = .internal l r w ∧
      decFetchSingleton s = .fault .singletonRootNotLeaf) := by
  unfold decFetchSingleton State.takeBitIn
  rcases h : s.qBitIn with _ | ⟨_ | _, q⟩
  · simp
  · have hn : State.nodeAt { s with qBitIn := q } s.root = s.nodeAt s.root := rfl
    cases hc : s.nodeAt s.root <;> simp [hn, hc, State.setSeq]
  · simp [State.setSeq]

/-- R183, R185: what DEC's fetch can do on a tree of two or more symbols. -/
theorem decFetchTree_cases (s : State) :
    (s.qBitIn = [] ∧ decFetchTree s = .next s) ∨
    (∃ q, s.qBitIn = .fin :: q ∧
      decFetchTree s = .next { s with qBitIn := q, decMidpath := decide (s.decPtr ≠ s.root), seq := .decClose }) ∨
    (∃ b q c w, s.qBitIn = .bit b :: q ∧ s.nodeAt s.decPtr = .leaf c w ∧
      decFetchTree s = .fault .pointerAtLeaf) ∨
    (∃ b q l r w c v, s.qBitIn = .bit b :: q ∧ s.nodeAt s.decPtr = .internal l r w ∧
      s.nodeAt (if b then r else l) = .leaf c v ∧
      decFetchTree s = .next { s with qBitIn := q, decNbit := s.decNbit + 1, decPtr := s.root, seq := .decEmit c }) ∨
    (∃ b q l r w l' r' v, s.qBitIn = .bit b :: q ∧ s.nodeAt s.decPtr = .internal l r w ∧
      s.nodeAt (if b then r else l) = .internal l' r' v ∧
      decFetchTree s = .next { s with qBitIn := q, decNbit := s.decNbit + 1, decPtr := if b then r else l }) := by
  unfold decFetchTree State.takeBitIn
  rcases h : s.qBitIn with _ | ⟨b | _, q⟩
  · simp
  · have hn : ∀ i, State.nodeAt { s with qBitIn := q } i = s.nodeAt i := fun _ => rfl
    cases hc : s.nodeAt s.decPtr with
    | leaf c w => simp [hn, hc]
    | internal l r w =>
      cases hp : s.nodeAt (if b then r else l) <;> simp [hn, hc, hp, State.setSeq]
  · simp [State.setSeq]

/-- R184: what the core step at DEC_EMIT(c) can do. -/
theorem decEmitStep_cases (c : Sym) (s : State) :
    (s.symOutReady = false ∧ decEmitStep c s = s) ∨
    (s.symOutReady = true ∧
      decEmitStep c s = { s with rSymOut := s.rSymOut ++ [.sym c], decNsym := s.decNsym + 1, seq := .decFetch }) := by
  unfold decEmitStep
  cases h : s.symOutReady <;> simp [State.putSymOut, State.setSeq]

/-- R186: what the core step at DEC_CLOSE can do. -/
theorem decCloseStep_cases (s : State) :
    (s.symOutReady = false ∧ decCloseStep s = s) ∨
    (s.symOutReady = true ∧
      decCloseStep s = { s with rSymOut := s.rSymOut ++ [.fin], errcode := 0, seq := .idle }) := by
  unfold decCloseStep
  cases h : s.symOutReady <;> simp [State.putSymOut, State.complete]

/-- What the host's turn can do: nothing, or its first operation, with or without going on to the next. -/
theorem hostStep_cases (s : State) :
    (s.program = [] ∧ hostStep s = s) ∨
    (∃ op rest, s.program = op :: rest ∧ hostOpDone op s = false ∧ hostStep s = hostOp op s) ∨
    (∃ op rest, s.program = op :: rest ∧ hostOpDone op s = true ∧
      hostStep s = { hostOp op s with program := rest }) := by
  unfold hostStep
  rcases h : s.program with _ | ⟨op, rest⟩
  · simp
  · cases hd : hostOpDone op s <;> simp [hd]

/-- What a step can be: the core's turn or the host's, with the schedule's head consumed where there is one (R69). -/
theorem step_cases (s : State) :
    (∃ rest, s.sched = .core :: rest ∧ step s = coreStep { s with sched := rest }) ∨
    (∃ rest, s.sched = .host :: rest ∧ step s = .next (hostStep { s with sched := rest })) ∨
    (s.sched = [] ∧ coreEnabled s = true ∧ step s = coreStep s) ∨
    (s.sched = [] ∧ coreEnabled s = false ∧ step s = .next (hostStep s)) := by
  unfold step
  rcases h : s.sched with _ | ⟨_ | _, rest⟩
  · cases he : coreEnabled s <;> simp
  · simp
  · simp

end Sys2Proof.Machine
end

