-- ==== Sys2Proof/Tests/Slice0.lean ====
section
/-! SUPPORT. Tests: expected values are those of spec/95_test_vectors.md and of the worked examples the comments name; each
is about one step on a small state. After them, one witness for the hypotheses of each statement that has any. -/

namespace Sys2Proof.Tests

open Sys2Proof.Machine Sys2Proof.Safety

/-! ### Well-formedness: an ill-formed term for each check, which the check refuses -/

theorem test_refuses_reserved_op : (CommandWord.mk 0xA 0 0).opReserved = true := by decide
theorem test_refuses_reserved_word : (CommandWord.mk 0xF 0x123 0x4567).wellFormed = false := by decide
theorem test_refuses_rsv_bit : (CommandWord.mk 0x8 0x001 0x0843).zerosHold = false := by decide
theorem test_refuses_nop_arg : (CommandWord.mk 0x0 0 0x0001).wellFormed = false := by decide
theorem test_refuses_build_arg : (CommandWord.mk 0x4 0 0x0001).wellFormed = false := by decide
theorem test_refuses_wrf_arg : (CommandWord.mk 0x2 0 0x0141).wellFormed = false := by decide
theorem test_refuses_rdf_arg : (CommandWord.mk 0x3 0 0x8000).wellFormed = false := by decide
theorem test_refuses_rdnode_arg : (CommandWord.mk 0x9 0 0x0200).wellFormed = false := by decide
theorem test_refuses_widx : (Instr.rdcode 0x41 8).operandsLegal = false := by decide
theorem test_refuses_nidx : (Instr.rdnode 511).operandsLegal = false := by decide
theorem test_accepts_rdcode : (CommandWord.mk 0x8 0 0xFFFF).wellFormed = true := by decide

/-! ### Decoding: a word for every constructor, written out from R80 to R82, and the illegal words of V-X1 and V-X2 -/

theorem test_decode_nop : decode 0b0000_000000000000_0000000000000000 = some .nop := by decide
theorem test_decode_clrf : decode 0b0001_000000000000_0000000000000000 = some .clrf := by decide
theorem test_decode_wrf : decode 0b0010_000000000000_00000000_01000001 = some (.wrf 0x41) := by decide
theorem test_decode_rdf : decode 0b0011_000000000000_00000000_11111111 = some (.rdf 0xFF) := by decide
theorem test_decode_build : decode 0b0100_000000000000_0000000000000000 = some .build := by decide
theorem test_decode_genc : decode 0b0101_000000000000_0000000000000000 = some .genc := by decide
theorem test_decode_enc : decode 0b0110_000000000000_0000000000000000 = some .enc := by decide
theorem test_decode_dec : decode 0b0111_000000000000_0000000000000000 = some .dec := by decide
theorem test_decode_rdcode : decode 0b1000_000000000000_00000111_01000011 = some (.rdcode 0x43 7) := by decide
theorem test_decode_rdnode : decode 0b1001_000000000000_0000000_111111110 = some (.rdnode 510) := by decide
theorem test_decode_illegal :
    [0x40000001, 0xA0000000, 0xF1234567, 0x00000001, 0x20000141, 0x90000200, 0x80010843].map decode
      = List.replicate 7 none := by decide
theorem test_encode_rdcode : encode (.rdcode 0x41 7) = 0x80000741 := by decide
theorem test_encode_rdnode : encode (.rdnode 510) = 0x900001FE := by decide

/-! ### Small states -/

/-- The arena of R130: A 1, B 2, C 4, D 8. -/
def abcdNodes : Table Node :=
  [(0, .leaf 0x41 1), (1, .leaf 0x42 2), (2, .leaf 0x43 4), (3, .leaf 0x44 8),
   (4, .internal 0 1 3), (5, .internal 4 2 7), (6, .internal 5 3 15)]

/-- FREQ of R130. -/
def abcdFreq : Table Word := [(0x41, 1), (0x42, 2), (0x43, 4), (0x44, 8)]

/-- The state after BUILD on R130's table (V-B4). -/
def abcdTree : State := { State.reset with freq := abcdFreq, node := abcdNodes, treeSize := 4, root := 6 }

/-- The state after GENC on it (V-G3): A 000, B 001, C 01, D 1. -/
def abcd : State :=
  { abcdTree with
    len := [(0x41, 3), (0x42, 3), (0x43, 2), (0x44, 1)], code := [(0x42, 1), (0x43, 1), (0x44, 1)]
    codesValid := true }

/-- The state of V-G2: 'z' alone. -/
def onlyZ : State :=
  { State.reset with
    freq := [(0x7A, 0xFFFFFFFF)], node := [(0, .leaf 0x7A 0xFFFFFFFF)], treeSize := 1, root := 0
    len := [(0x7A, 1)], code := [(0x7A, 1)], codesValid := true }

/-- `s` with the command word `w` running and the sequencer at `q`. -/
def running (s : State) (w : Word) (q : SeqState) : State := { s with cmd := w, lcmd := w, seq := q }

/-- A field of the next state of an outcome. -/
def after {α : Type} (f : State → α) : Host.Outcome State Fault Refusal → Option α
  | .next t => some (f t)
  | .fault _ => none
  | .refused _ => none

/-- RES0 to RES3. -/
def results (s : State) : List Word := [s.res0, s.res1, s.res2, s.res3]

/-! ### One step of each command -/

-- V-T8: NOP clears what the acceptance leaves.
theorem test_nop : after State.statusWord (step ({ abcd with errcode := 3 }.withFetchWord 32 0x00000000)) = some 0x006 := by
  decide
-- V-T3
theorem test_clrf : after (fun t => t.freqAt 0x41) (exec .clrf abcd) = some 0 := by decide
-- V-T4: the latched count, not DATA0.
theorem test_wrf : after (fun t => (t.freqAt 0x41, t.freqAt 0x42)) (exec (.wrf 0x41) { abcd with ldata := 5, data0 := 99 })
    = some (5, 2) := by decide
theorem test_wrf_zero_removes : after State.freq (exec (.wrf 0x44) abcd) = some [(0x41, 1), (0x42, 2), (0x43, 4)] := by
  decide
-- V-T2
theorem test_rdf : after results (exec (.rdf 0x42) { abcd with freq := [(0x42, 3)], res3 := 7 }) = some [3, 0, 0, 0] := by
  decide
-- V-T5, V-T6
theorem test_rdcode : after results (exec (.rdcode 0x43 0) abcd) = some [2, 1, 0, 0] := by decide
theorem test_rdcode_range : after (fun t => (t.errcode, results t)) (exec (.rdcode 0x43 8) { abcd with res0 := 9 })
    = some (2, [9, 0, 0, 0]) := by decide
-- V-B4
theorem test_rdnode_root : after results (exec (.rdnode 6) abcd) = some [0x80000005, 3, 0xF, 0] := by decide
theorem test_rdnode_range : after State.statusWord (exec (.rdnode 7) abcdTree) = some 0x02A := by decide
-- V-B4, R130: the arena, the root and the cleared code table; no ties arise, so no draw is read.
theorem test_build : after (fun t => (t.node, t.treeInfoWord, t.statusWord)) (exec .build { abcd with node := [] })
    = some (abcdNodes, 0x00060004, 0x002) := by decide +kernel
-- V-B2
theorem test_build_singleton :
    after (fun t => (t.node, t.treeInfoWord, t.statusWord)) (exec .build { State.reset with freq := [(0x7A, 0xFFFFFFFF)] })
      = some ([(0, .leaf 0x7A 0xFFFFFFFF)], 0x00000001, 0x402) := by decide +kernel
-- V-G3
theorem test_genc : after (fun t => (t.len, t.code, t.statusWord)) (exec .genc abcdTree)
    = some (abcd.len, abcd.code, 0x006) := by decide +kernel
-- V-G2
theorem test_genc_singleton : after (fun t => (t.len, t.code, t.statusWord)) (exec .genc { onlyZ with len := [], code := [] })
    = some ([(0x7A, 1)], [(0x7A, 1)], 0x406) := by decide
-- V-E2: 'E' has no codeword.
theorem test_enc_missing :
    after (fun t => (t.seq, t.errinfo, t.qSymIn))
      (coreStep { running abcd 0x60000000 .encFetch with qSymIn := [.sym 0x45, .sym 0x41, .fin] })
      = some (.encClose 3, 0x45, [.sym 0x41, .fin]) := by decide
-- R163: the first bit of B = "001" is 0.
theorem test_enc_bit :
    after (fun t => (t.rBitOut, t.encNbit, t.seq)) (coreStep (running abcd 0x60000000 (.encBit 0x42 2)))
      = some ([.bit false], 1, .encBit 0x42 1) := by decide
-- R183: from node 5, bit 1 leads to the leaf C.
theorem test_dec_leaf :
    after (fun t => (t.seq, t.decPtr, t.decNbit))
      (coreStep { running abcd 0x70000000 .decFetch with decPtr := 5, qBitIn := [.bit true] })
      = some (.decEmit 0x43, 6, 1) := by decide
-- V-D3: END in the middle of a path.
theorem test_dec_midpath :
    after (fun t => (t.seq, t.decMidpath))
      (coreStep { running abcd 0x70000000 .decFetch with decPtr := 4, qBitIn := [.fin] })
      = some (.decClose, true) := by decide

/-! ### The lifecycle -/

-- V-X1: an illegal word is accepted and completes with E_ILLEGAL.
theorem test_illegal : after State.statusWord (step (abcd.withFetchWord 32 0x40000001)) = some 0x01E := by decide
-- V-X4: a dropped CMD write.
theorem test_overrun :
    let t := (running abcd 0x60000000 .encFetch).memWrite 0x04 0x40000000
    (t.statusWord, t.cmd) = (0x107, 0x60000000) := by decide
-- V-X4: W1C of OVERRUN.
theorem test_w1c : ({ abcd with overrun := true }.memWrite 0x08 0x100).statusWord = 0x006 := by decide
-- V-R2: SRST in the middle of an ENC leaves the bits already put.
theorem test_srst :
    let t := { running abcd 0x60000000 .encFetch with rBitOut := [.bit true, .bit false, .bit true] }.memWrite 0x28 1
    (t.statusWord, t.treeInfoWord, t.rBitOut) = (0, 0, [.bit true, .bit false, .bit true]) := by decide
-- R42: a core held on an empty SYM_IN changes nothing.
theorem test_held : after State.seq (coreStep (running abcd 0x60000000 .encFetch)) = some .encFetch := by decide
-- R43: with OUT_CAP = 1 and one token in the buffer, the core is held.
theorem test_full_buffer :
    after State.rBitOut (coreStep { running abcd 0x60000000 (.encBit 0x44 0) with outCap := some 1, rBitOut := [.close] })
      = some [.close] := by decide
-- R209, V-X6: the schedule decides whether a CMD write or the completion comes first.
theorem test_write_first :
    after State.overrun (step { running abcd 0x00000000 .exec with sched := [.host, .core], program := [.wr .cmd 0] })
      = some true := by decide
theorem test_completion_first :
    after State.seq (step { running abcd 0x00000000 .exec with sched := [.core, .host], program := [.wr .cmd 0] })
      = some .idle := by decide
-- R90: the expansion of WRF 0x41, 14 (the example of R103).
theorem test_pseudo_wrf : pseudoWrf 0x41 14 = [.wr .data0 14, .wr .cmd 0x20000041, .poll] := by decide
-- P1's last lines, from "BIT_IN <- 1 1 1 1 1 1 END" to "SYM_OUT -> a a a a a a END"; POLL is the read of 0x08 (R92).
theorem test_encoding :
    programEncoding (sendBits (List.replicate 6 true) ++ pseudo .dec ++ [.rd .decNsym, .drain .symOut])
        (List.replicate 6 (.symOut (.sym 0x61)) ++ [.symOut .fin])
      = { transactions := [.w 0x04 0x70000000, .r 0x08, .r 0x38]
          symIn := [], bitIn := List.replicate 6 (.bit true) ++ [.fin]
          bitOut := [], symOut := List.replicate 6 (.sym 0x61) ++ [.fin] } := by decide
-- R92: the part of an encoding that R87 decodes; the write of DATA0 is none of it (P1).
theorem test_encoding_commands :
    (programEncoding (pseudoWrf 0x61 6 ++ [.wr .cmd 0x40000001]) []).commands = [some (.wrf 0x61), none] := by decide
-- P4: "BIT_OUT -> CLOSE".
theorem test_tokensRemoved :
    ({ abcd with rBitOut := [.close], program := [.drain .bitOut] }.encodingOfRun 1).bitOut = [.close] := by decide
-- On the core's turn nothing is removed.
theorem test_tokensRemoved_core :
    tokensRemoved 1 { abcd with rBitOut := [.close], program := [.drain .bitOut], sched := [.core] } = [] := by decide

/-! ### Witnesses: for each statement with hypotheses, concrete states and operands that meet all of them, and for each
clause at a boundary of its range. None of them proves a statement. -/

/-- A step whose outcome has a field has a next state. -/
theorem next_of_after {α : Type} {f : State → α} {x : α} {o : Host.Outcome State Fault Refusal} (h : after f o = some x) :
    ∃ t, o = .next t := by
  cases o with
  | next t => exact ⟨t, rfl⟩
  | fault _ => cases h
  | refused _ => cases h

theorem abcd_parents (i j : Nat) (h4 : 4 ≤ j) (h7 : j < 7) :
    ChildOf abcdNodes i j ↔ (j = 4 ∧ (0 = i ∨ 1 = i)) ∨ (j = 5 ∧ (4 = i ∨ 2 = i)) ∨ (j = 6 ∧ (5 = i ∨ 3 = i)) := by
  interval_cases j <;> simp [ChildOf, abcdNodes, tableGet]

/-- The tree of R130 is a tree as the invariant has it. -/
theorem abcd_treeWf : TreeWf 4 6 abcdNodes where
  size_le := by decide
  root_eq := rfl
  leaves := by
    intro i hi
    interval_cases i
    exacts [⟨_, _, rfl⟩, ⟨_, _, rfl⟩, ⟨_, _, rfl⟩, ⟨_, _, rfl⟩]
  ascending := by
    intro i j c d v w hij hj hi hd
    interval_cases j <;> interval_cases i <;> cases hi <;> cases hd <;> decide
  internals := by
    intro j h4 h7
    interval_cases j
    all_goals exact ⟨_, _, _, rfl, by decide, by decide, by decide, by decide, by decide⟩
  one_parent := by
    intro i hi
    refine existsUnique_of_exists_of_unique ?_ ?_
    · interval_cases i
      exacts [⟨4, by decide, by decide, (abcd_parents _ _ (by decide) (by decide)).2 (by decide)⟩,
        ⟨4, by decide, by decide, (abcd_parents _ _ (by decide) (by decide)).2 (by decide)⟩,
        ⟨5, by decide, by decide, (abcd_parents _ _ (by decide) (by decide)).2 (by decide)⟩,
        ⟨6, by decide, by decide, (abcd_parents _ _ (by decide) (by decide)).2 (by decide)⟩,
        ⟨5, by decide, by decide, (abcd_parents _ _ (by decide) (by decide)).2 (by decide)⟩,
        ⟨6, by decide, by decide, (abcd_parents _ _ (by decide) (by decide)).2 (by decide)⟩]
    · rintro j k ⟨hj4, hj7, hj⟩ ⟨hk4, hk7, hk⟩
      rw [abcd_parents _ _ hj4 hj7] at hj
      rw [abcd_parents _ _ hk4 hk7] at hk
      omega

/-- The singleton tree of V-G2. -/
theorem onlyZ_treeWf : TreeWf 1 0 onlyZ.node where
  size_le := by decide
  root_eq := rfl
  leaves := by
    intro i hi
    interval_cases i
    exact ⟨_, _, rfl⟩
  ascending := fun i j _ _ _ _ hij hj => by omega
  internals := fun j h1 h2 => by omega
  one_parent := fun i hi => by omega

/-- The absent tree of a reset block. -/
theorem absent_treeWf : TreeWf 0 0 [] where
  size_le := by decide
  root_eq := rfl
  leaves := fun i hi => by omega
  ascending := fun i j _ _ _ _ hij hj => by omega
  internals := fun j _ h2 => by omega
  one_parent := fun i hi => by omega

/-- A state with the tables of `abcd` and no error meets the invariant if its sequencer state does. -/
theorem abcd_inv (s : State) (hf : SameFreq abcd s) (ht : SameTree abcd s) (hc : SameCodes abcd s) (he : s.errcode = 0)
    (hi : s.errinfo = 0) (hl : s.lcmd = s.cmd) (hs : SeqWf s) : Inv s := by
  obtain ⟨h1, h2, h3⟩ := ht
  obtain ⟨h4, h5, h6⟩ := hc
  refine ⟨?_, ?_, ?_, ?_, ?_, fun _ => ?_, fun h => ?_, ?_, by simp [he], by simp [hi], fun _ => he, fun _ => hl, hs⟩
  · rw [show s.freq = abcdFreq from hf]; decide
  · rw [show s.node = abcdNodes from h3]; decide
  · rw [show s.len = abcd.len from h4]; decide
  · rw [show s.code = abcd.code from h5]; decide
  · rw [h1, h2, h3]; exact abcd_treeWf
  · rw [h1, h2, h3, h4, h5]; decide +kernel
  · rw [h6] at h; cases h
  · intro c
    have hk : ∀ c : Sym, (abcd.codeAt c).toNat < 2 ^ (abcd.lenAt c).toNat := by decide +kernel
    have := hk c
    rwa [State.codeAt, State.lenAt, ← h4, ← h5] at this

/-- An absent tree with its empty code table, on which ENC has been started. -/
def encOnNothing : State := { running { State.reset with codesValid := true } 0x60000000 .exec with qSymIn := [.fin] }

/-- ENC about to run on "DB" with exactly the room it needs. -/
def encDB : State :=
  { running abcd 0x60000000 .exec with qSymIn := [.sym 0x44, .sym 0x42, .fin, .fin], outCap := some 5 }

/-- ENC about to run on "DE", where 'E' has no codeword, with exactly the room it needs. -/
def encDE : State :=
  { running abcd 0x60000000 .exec with qSymIn := [.sym 0x44, .sym 0x45, .sym 0x41, .fin], outCap := some 2 }

/-- DEC about to run on the bits of "DB" with exactly the room it needs. -/
def decDB : State :=
  { running abcd 0x70000000 .exec with
    qBitIn := [.bit true, .bit false, .bit false, .bit true, .fin], outCap := some 3 }

/-- DEC at node 5, about to take a bit. -/
def decMid : State :=
  { running abcd 0x70000000 .decFetch with decPtr := 5, qBitIn := [.bit true, .fin] }

theorem witness_inv_idle : Inv abcd :=
  abcd_inv _ rfl ⟨rfl, rfl, rfl⟩ ⟨rfl, rfl, rfl⟩ rfl rfl rfl trivial

theorem witness_inv_dec : Inv decMid :=
  abcd_inv _ rfl ⟨rfl, rfl, rfl⟩ ⟨rfl, rfl, rfl⟩ rfl rfl rfl
    ⟨by decide, by decide, fun h => absurd h (by decide), fun _ => ⟨by decide, by decide⟩⟩

theorem witness_inv_enc : Inv encDB :=
  abcd_inv _ rfl ⟨rfl, rfl, rfl⟩ ⟨rfl, rfl, rfl⟩ rfl rfl rfl trivial

theorem witness_inv_absent : Inv encOnNothing where
  freq_wf := by decide
  node_wf := by decide
  len_wf := by decide
  code_wf := by decide
  tree_wf := absent_treeWf
  codes_valid := fun _ => rfl
  codes_invalid := fun h => by cases h
  code_fits := fun _ => by simp [State.codeAt, State.lenAt, encOnNothing, running, State.reset]
  errcode_le := by decide
  errinfo_lt := by decide
  errcode_busy := fun _ => rfl
  cmd_latched := fun _ => rfl
  seq_wf := trivial

/-! Encoding. -/

theorem witness_DecodeThenEncode : decode 0x8000FFFF = some (.rdcode 0xFF 0xFF) := by decide

/-! The step and errors. -/

theorem witness_StepRunsDecodedInstruction :
    (∃ s rest, AboutToRun (.wrf 0x41) s ∧ s.sched = .core :: rest) ∧ (∃ s, AboutToRun .enc s ∧ s.sched = []) ∧
    decodeTableWord 32 0x900001FE = some (.rdnode 510) :=
  ⟨⟨{ running abcd 0x20000041 .exec with sched := [.core] }, [], ⟨rfl, by decide⟩, rfl⟩,
    ⟨encDB, ⟨rfl, by decide⟩, rfl⟩, by decide⟩

theorem witness_ExecStepDispatch :
    (∃ s : State, s.seq = .exec ∧ decode s.lcmd = none) ∧
    (∃ s i t, s.seq = .exec ∧ decode s.lcmd = some i ∧ exec i s = .next t ∧ SingleStep i) ∧
    ∃ s i t, s.seq = .exec ∧ decode s.lcmd = some i ∧ exec i s = .next t ∧ ¬ SingleStep i :=
  ⟨⟨running abcd 0x40000001 .exec, rfl, by decide⟩,
    ⟨running abcd 0 .exec, .nop, _, rfl, by decide, rfl, by decide, by decide⟩,
    ⟨encDB, .enc, _, rfl, by decide, rfl, fun h => h.1 rfl⟩⟩

theorem witness_IllegalWordChangesOnlyErrcode :
    abcd.seq = .idle ∧ (CommandWord.ofWord 0xA0000000).wellFormed = false ∧
      (CommandWord.ofWord 0x90000200).wellFormed = false := by decide

/-- Reserved OP; must-be-zero bit; both an illegal bit and a word index out of range (R208's own word); an index at
NODE_COUNT; the last index below it. -/
theorem witness_ErrorPriority :
    (∃ t, coreStep (running abcd 0xA0000000 .exec) = .next t) ∧ (∃ t, coreStep (running abcd 0x80010800 .exec) = .next t) ∧
    (∃ t, coreStep (running abcd 0x80000841 .exec) = .next t) ∧ (∃ t, coreStep (running abcd 0x90000007 .exec) = .next t) ∧
    (∃ t, coreStep (running abcd 0x90000006 .exec) = .next t) ∧
    (CommandWord.ofWord 0xA0000000).opReserved = true ∧ (CommandWord.ofWord 0x80010800).zerosHold = false ∧
    decode 0x80000841 = some (.rdcode 0x41 8) ∧ decode 0x90000007 = some (.rdnode 7) ∧ abcd.nodeCount = 7 :=
  ⟨⟨_, rfl⟩, ⟨_, rfl⟩, ⟨_, rfl⟩, ⟨_, rfl⟩, ⟨_, rfl⟩, by decide, by decide, by decide, by decide, by decide⟩

theorem witness_RangeErrorsArePrecise :
    SingleStep (.rdnode 7) ∧ (∃ t, exec (.rdnode 7) abcd = .next t) ∧ SingleStep (.rdcode 0x41 7) ∧
    ∃ t, exec (.rdcode 0x41 7) abcd = .next t :=
  ⟨⟨by decide, by decide⟩, ⟨_, rfl⟩, ⟨by decide, by decide⟩, ⟨_, rfl⟩⟩

theorem witness_CmdWriteAcceptsOrOverruns : abcd.seq = .idle ∧ encDB.seq ≠ .idle := by decide

/-- OVERRUN rises by a CMD write, falls by STATUS[8], and falls by a reset. -/
theorem witness_OverrunIsSticky :
    (∃ s t, step s = .next t ∧ s.overrun = false ∧ t.overrun = true) ∧
    (∃ s t, step s = .next t ∧ s.overrun = true ∧ t.overrun = false ∧ s.program = [.wr .status 0x100]) ∧
    ∃ s t, step s = .next t ∧ s.overrun = true ∧ t.overrun = false ∧ s.program = [.reset] :=
  ⟨⟨{ encDB with sched := [.host], program := [.wr .cmd 0] }, _, rfl, rfl, rfl⟩,
    ⟨{ abcd with overrun := true, program := [.wr .status 0x100] }, _, rfl, rfl, rfl, rfl⟩,
    ⟨{ abcd with overrun := true, program := [.reset] }, _, rfl, rfl, rfl, rfl⟩⟩

theorem witness_RunningCommandIgnoresLaterWrites : encDB.seq ≠ .idle ∧ decMid.seq ≠ .idle := by decide

theorem witness_HostOperations :
    abcd.rBitOut = [] ∧ abcd.rSymOut = [] ∧
    ({ abcd with rBitOut := [.close] } : State).rBitOut = .close :: [] ∧
    ({ abcd with rSymOut := [.fin] } : State).rSymOut = .fin :: [] := by decide

theorem witness_SoftResetIsReset : (0x00000001 : Word).getLsbD 0 = true ∧ (0xFFFFFFFE : Word).getLsbD 0 = false := by
  decide

/-! The invariant. -/

theorem witness_StepKeepsInvariant :
    ∃ s t, Inv s ∧ step s = .next t ∧ t.seq = .decEmit 0x43 :=
  ⟨decMid, _, witness_inv_dec, rfl, rfl⟩

theorem witness_InvariantStatesNeverStop : Inv abcd ∧ Inv decMid ∧ Inv encDB ∧ Inv encOnNothing :=
  ⟨witness_inv_idle, witness_inv_dec, witness_inv_enc, witness_inv_absent⟩

/-! Table access. -/

theorem witness_WrfResult : (0x42 : Sym) ≠ 0x41 := by decide

theorem witness_RdcodeResult :
    (8 : BitVec 8).toNat > 7 ∧ (7 : BitVec 8).toNat ≤ 7 ∧ (abcd.codeAt 0x41).toNat < 2 ^ (abcd.lenAt 0x41).toNat ∧
    (abcd.lenAt 0x41).toNat ≤ 32 * (1 : BitVec 8).toNat ∧ (1 : BitVec 8).toNat ≤ 7 := by decide

theorem witness_RdnodeResult :
    abcd.nodeCount ≤ (7 : BitVec 9).toNat ∧ (6 : NodeIx).val = (6 : BitVec 9).toNat ∧ (6 : NodeIx).val < abcd.nodeCount ∧
    abcd.nodeAt 6 = .internal 5 3 15 ∧ (0 : NodeIx).val = (0 : BitVec 9).toNat ∧ abcd.nodeAt 0 = .leaf 0x41 1 := by decide

theorem witness_TableAccessFrame : TableAccess .nop ∧ TableAccess .clrf ∧ TableAccess (.rdnode 6) :=
  ⟨⟨⟨by decide, by decide⟩, by decide, by decide⟩, ⟨⟨by decide, by decide⟩, by decide, by decide⟩,
    ⟨by decide, by decide⟩, by decide, by decide⟩

/-! BUILD. -/

/-- Two equal counts. -/
def pair : State := { State.reset with freq := [(0x41, 5), (0x42, 5)] }

/-- A queue with a tie for the least weight. -/
def tied : Forest := { node := [(0, .leaf 0x41 5), (1, .leaf 0x42 5)], next := 2, queue := [0, 1], draws := 0 }

theorem witness_BuildCompletes :
    allSyms.filter (fun c => State.reset.freqAt c ≠ 0) = [] ∧
    (3 : NodeIx).val < (allSyms.filter (fun c => abcd.freqAt c ≠ 0)).length := by decide +kernel

theorem witness_BuildMakesHuffmanTree : ∃ c, abcd.freqAt c ≠ 0 := ⟨0x44, by decide⟩

theorem witness_BuildOfEmptyAndSingletonTables :
    (∀ c, State.reset.freqAt c = 0) ∧ onlyZ.freqAt 0x7A ≠ 0 ∧ ∀ b, b ≠ 0x7A → onlyZ.freqAt b = 0 := by
  refine ⟨fun _ => rfl, by decide, by decide +kernel⟩

theorem witness_DequeueTakesAnyTiedMinimum :
    tied.queue ≠ [] ∧ (∀ a ∈ tied.queue, ∀ i ∈ tied.queue, weightAt tied.node a ≤ weightAt tied.node i) := by
  decide +kernel

theorem witness_MergeJoinsTwoLightest : 2 ≤ tied.queue.length ∧ tied.next < 511 := by decide

theorem witness_EqualPairAdmitsBothTrees :
    (0x41 : Sym).toNat < (0x42 : Sym).toNat ∧ pair.freqAt 0x41 ≠ 0 ∧ pair.freqAt 0x42 = pair.freqAt 0x41 ∧
    ∀ b, b ≠ 0x41 → b ≠ 0x42 → pair.freqAt b = 0 := by decide +kernel

theorem witness_WeightedLengthIndependentOfTies :
    (∃ t, exec .genc (pair.buildTree fun _ => 0) = .next t) ∧ ∃ t, exec .genc (pair.buildTree fun _ => 1) = .next t :=
  ⟨next_of_after (f := State.len) (x := [(0x41, 1), (0x42, 1)]) (by decide +kernel),
    next_of_after (f := State.len) (x := [(0x41, 1), (0x42, 1)]) (by decide +kernel)⟩

/-- Two symbols of one bit each fill the Kraft sum. -/
theorem witness_HuffmanTreeIsOptimal :
    (∃ t, exec .genc (pair.buildTree fun _ => 0) = .next t) ∧
    2 ≤ (allSyms.filter (fun c => pair.freqAt c ≠ 0)).length ∧
    ((allSyms.filter (fun c => pair.freqAt c ≠ 0)).map (fun _ => (1 / 2 : ℚ) ^ 1)).sum ≤ 1 := by
  have h : allSyms.filter (fun c => pair.freqAt c ≠ 0) = [0x41, 0x42] := by decide +kernel
  refine ⟨witness_WeightedLengthIndependentOfTies.1, by rw [h]; decide, ?_⟩
  rw [h]
  norm_num

/-! GENC. -/

theorem witness_GencCompletes :
    TreeWf State.reset.treeSize.val State.reset.root State.reset.node ∧
    TreeWf onlyZ.treeSize.val onlyZ.root onlyZ.node ∧ TreeWf abcdTree.treeSize.val abcdTree.root abcdTree.node :=
  ⟨absent_treeWf, onlyZ_treeWf, abcd_treeWf⟩

theorem witness_GencOfAbsentAndSingletonTrees :
    State.reset.treeSize.val = 0 ∧ onlyZ.treeSize.val = 1 ∧ onlyZ.nodeAt onlyZ.root = .leaf 0x7A 0xFFFFFFFF := by decide

/-- The hypotheses of GencRecordsPaths and GencMakesFullPrefixCode, the deepest leaf, and a symbol on no leaf. -/
theorem witness_GencRecordsPaths :
    TreeWf abcdTree.treeSize.val abcdTree.root abcdTree.node ∧ 2 ≤ abcdTree.treeSize.val ∧
    (∃ t, exec .genc abcdTree = .next t) ∧ pathFrom abcdTree.node abcdTree.root [false, false, true] = some 1 ∧
    abcdTree.nodeAt 1 = .leaf 0x42 2 ∧
    ∀ i : NodeIx, i.val < abcdTree.treeSize.val → ∀ w, abcdTree.nodeAt i ≠ .leaf 0x45 w := by
  refine ⟨abcd_treeWf, by decide, next_of_after (f := State.len) (x := abcd.len) (by decide +kernel), by decide, by decide,
    fun i hi w => ?_⟩
  have h4 : i.val < 4 := hi
  obtain ⟨i, hlt⟩ := i
  simp only at h4
  interval_cases i <;> intro h <;> injection h with h1 _ <;> exact absurd h1 (by decide)

/-- Two symbols with codewords. -/
theorem witness_GencMakesFullPrefixCode :
    ∃ t, exec .genc abcdTree = .next t ∧ t.lenAt 0x41 ≠ 0 ∧ t.lenAt 0x44 ≠ 0 := by
  obtain ⟨t, ht⟩ := next_of_after (f := State.len) (o := exec .genc abcdTree) (x := abcd.len) (by decide +kernel)
  have hl : after State.len (exec .genc abcdTree) = some abcd.len := by decide +kernel
  rw [ht] at hl
  have hl : t.len = abcd.len := Option.some.inj hl
  exact ⟨t, ht, by rw [State.lenAt, hl]; decide, by rw [State.lenAt, hl]; decide⟩

theorem witness_GencIsIdempotent : ∃ t, exec .genc onlyZ = .next t := ⟨_, rfl⟩

/-! ENC. -/

theorem witness_EncFetchStep :
    let s := running abcd 0x60000000 .encFetch
    s.seq = .encFetch ∧ s.qSymIn = [] ∧ s.lenAt 0x45 = 0 ∧ s.lenAt 0x44 ≠ 0 ∧
    ({ s with qSymIn := [.fin] } : State).qSymIn = .fin :: [] ∧
    ({ s with qSymIn := [.sym 0x45] } : State).qSymIn = .sym 0x45 :: [] ∧
    ({ s with qSymIn := [.sym 0x44] } : State).qSymIn = .sym 0x44 :: [] := by decide

/-- Room for exactly one token, and for none. -/
theorem witness_bitOutRoom :
    BitOutRoom { running abcd 0x60000000 (.encBit 0x44 0) with outCap := some 1 } 1 ∧
    ¬ BitOutRoom { running abcd 0x60000000 (.encClose 3) with outCap := some 1, rBitOut := [.bit true] } 1 :=
  ⟨fun c h => by cases h; decide, fun h => absurd (h 1 rfl) (by decide)⟩

theorem witness_EncEmitAndCloseSteps :
    (running abcd 0x60000000 (.encBit 0x44 0)).seq = .encBit 0x44 0 ∧
    (running abcd 0x60000000 (.encBit 0x41 2)).seq = .encBit 0x41 2 ∧
    (running abcd 0x60000000 (.encClose 3)).seq = .encClose 3 := by decide

theorem witness_EncStartAndFrame :
    (EncRunning (running abcd 0x60000000 (.encClose 3)) ∧ ∃ t, coreStep (running abcd 0x60000000 (.encClose 3)) = .next t) ∧
    AboutToRun .enc encDB ∧ ∃ t, coreStep encDB = .next t :=
  ⟨⟨.inr (.inr ⟨3, rfl⟩), _, rfl⟩, ⟨rfl, by decide⟩, _, rfl⟩

theorem witness_EncBitCountLaw :
    AboutToRun .enc encDB ∧ encDB.qSymIn = [0x44, 0x42].map .sym ++ .fin :: [.fin] ∧
    (∀ c ∈ ([0x44, 0x42] : List Sym), encDB.lenAt c ≠ 0) ∧ BitOutRoom encDB (streamLen encDB [0x44, 0x42] + 1) :=
  ⟨⟨rfl, by decide⟩, rfl, by decide, fun c h => by cases h; decide⟩

theorem witness_EncMissingCodewordRun :
    AboutToRun .enc encDE ∧ encDE.qSymIn = [0x44].map .sym ++ .sym 0x45 :: [.sym 0x41, .fin] ∧
    (∀ c ∈ ([0x44] : List Sym), encDE.lenAt c ≠ 0) ∧ encDE.lenAt 0x45 = 0 ∧
    BitOutRoom encDE (streamLen encDE [0x44] + 1) :=
  ⟨⟨rfl, by decide⟩, rfl, by decide, by decide, fun c h => by cases h; decide⟩

/-! DEC. -/

theorem witness_DecFetchOnSingleton :
    let s := { running onlyZ 0x70000000 .decFetch with qBitIn := [.bit false] }
    s.seq = .decFetch ∧ s.treeSize.val = 1 ∧ s.qBitIn = .bit false :: [] ∧ s.nodeAt s.root = .leaf 0x7A 0xFFFFFFFF ∧
    ({ s with qBitIn := [] } : State).qBitIn = [] ∧ ({ s with qBitIn := [.fin] } : State).qBitIn = .fin :: [] := by decide

/-- A bit that reaches a leaf, from node 5 to C, and one that does not, from the root to node 5. -/
theorem witness_DecFetchOnTree :
    Inv decMid ∧ decMid.seq = .decFetch ∧ 2 ≤ decMid.treeSize.val ∧ decMid.qBitIn = .bit true :: [.fin] ∧
    decMid.nodeAt decMid.decPtr = .internal 4 2 7 ∧ decMid.nodeAt 2 = .leaf 0x43 4 ∧ decMid.nodeAt 6 = .internal 5 3 15 ∧
    decMid.nodeAt 5 = .internal 4 2 7 ∧ ({ decMid with qBitIn := [.fin] } : State).qBitIn = .fin :: [] ∧
    ({ decMid with qBitIn := [] } : State).qBitIn = [] :=
  ⟨witness_inv_dec, by decide⟩

theorem witness_DecEmitAndCloseSteps :
    (running abcd 0x70000000 (.decEmit 0x44)).seq = .decEmit 0x44 ∧ (running abcd 0x70000000 .decClose).seq = .decClose ∧
    SymOutRoom { running abcd 0x70000000 .decClose with outCap := some 1 } 1 ∧
    ¬ SymOutRoom { running abcd 0x70000000 .decClose with outCap := some 0 } 1 :=
  ⟨rfl, rfl, fun c h => by cases h; decide, fun h => absurd (h 0 rfl) (by decide)⟩

theorem witness_DecStartAndFrame :
    (DecRunning decMid ∧ ∃ t, coreStep decMid = .next t) ∧ AboutToRun .dec decDB ∧ ∃ t, coreStep decDB = .next t :=
  ⟨⟨.inl rfl, _, rfl⟩, ⟨rfl, by decide⟩, _, rfl⟩

theorem witness_DecOnAbsentTree :
    let s := { running State.reset 0x70000000 .exec with qBitIn := [.bit true, .fin], outCap := some 1 }
    AboutToRun .dec s ∧ s.treeSize.val = 0 ∧ SymOutRoom s 1 :=
  ⟨⟨rfl, by decide⟩, rfl, fun c h => by cases h; decide⟩

theorem witness_DecMatchesSourceLoop :
    AboutToRun .dec decDB ∧ TreeWf decDB.treeSize.val decDB.root decDB.node ∧ 2 ≤ decDB.treeSize.val ∧
    decDB.qBitIn = [true, false, false, true].map .bit ++ .fin :: [] ∧
    SymOutRoom decDB ((sourceLoop decDB.node decDB.root 9 decDB.root [true, false, false, true]).length + 1) :=
  ⟨⟨rfl, by decide⟩, abcd_treeWf, by decide, rfl, fun c h => by cases h; decide⟩

/-- The encoder's side of RoundTrip, on a tree of four symbols and on the absent tree, and the decoder's. -/
theorem witness_RoundTrip :
    (Inv encDB ∧ encDB.codesValid = true ∧ AboutToRun .enc encDB ∧
      encDB.qSymIn = [0x44, 0x42].map .sym ++ .fin :: [.fin] ∧ (∀ c ∈ ([0x44, 0x42] : List Sym), encDB.lenAt c ≠ 0) ∧
      BitOutRoom encDB (streamLen encDB [0x44, 0x42] + 1)) ∧
    (Inv encOnNothing ∧ encOnNothing.codesValid = true ∧ AboutToRun .enc encOnNothing ∧
      encOnNothing.qSymIn = [].map .sym ++ .fin :: [] ∧ BitOutRoom encOnNothing (streamLen encOnNothing [] + 1)) ∧
    SameTree encDB decDB ∧ AboutToRun .dec decDB ∧
      decDB.qBitIn = (streamBits encDB [0x44, 0x42]).map .bit ++ .fin :: [] ∧ SymOutRoom decDB 3 :=
  ⟨⟨witness_inv_enc, rfl, ⟨rfl, by decide⟩, rfl, by decide, fun c h => by cases h; decide⟩,
    ⟨witness_inv_absent, rfl, ⟨rfl, by decide⟩, rfl, fun c h => by cases h⟩,
    ⟨rfl, rfl, rfl⟩, ⟨rfl, by decide⟩, by decide, fun c h => by cases h; decide⟩

/-! The whole machine. -/

/-- CLRF changes FREQ; a reset changes the tree and the code table; BUILD of an empty table does too. -/
theorem witness_SessionStateWriters :
    (∃ s t, step s = .next t ∧ ¬ SameFreq s t ∧ AboutToRun .clrf s) ∧
    (∃ s t, step s = .next t ∧ ¬ SameTree s t ∧ ¬ SameCodes s t ∧ ResetNext s) ∧
    ∃ s t, step s = .next t ∧ ¬ SameCodes s t ∧ AboutToRun .build s :=
  ⟨⟨running abcd 0x10000000 .exec, _, rfl, by unfold SameFreq; decide, rfl, by decide⟩,
    ⟨{ abcd with program := [.reset] }, _, rfl, by unfold SameTree; decide, by unfold SameCodes; decide, [], .inl rfl⟩,
    ⟨running { abcd with freq := [] } 0x40000000 .exec, _, rfl, fun h => absurd h.2.2 (by decide), rfl, by decide⟩⟩

/-- RDF changes RES; an accepted CMD write clears ERRINFO; ENC meets 'E'. -/
theorem witness_ResultRegisterWriters :
    (∃ s t, step s = .next t ∧ ¬ SameRes s t ∧ AboutToRun (.rdf 0x44) s) ∧
    (∃ s t, step s = .next t ∧ t.errinfo ≠ s.errinfo ∧ s.seq = .idle) ∧
    ∃ s t, step s = .next t ∧ t.errinfo ≠ s.errinfo ∧ s.seq = .encFetch :=
  ⟨⟨running abcd 0x30000044 .exec, _, rfl, by unfold SameRes; decide, rfl, by decide⟩,
    ⟨{ abcd with errinfo := 0x45, program := [.wr .cmd 0] }, _, rfl, by decide, rfl⟩,
    ⟨{ running abcd 0x60000000 .encFetch with qSymIn := [.sym 0x45] }, _, rfl, by decide, rfl⟩⟩

/-- Hypotheses of CoreLeavesCommandRegisters and PortsAreFirstInFirstOut: a step that takes a token, and one that puts one. -/
theorem witness_coreStep :
    (∃ t, coreStep decMid = .next t ∧ t.qBitIn = [.fin]) ∧
    ∃ t, coreStep (running abcd 0x60000000 (.encBit 0x44 0)) = .next t ∧ t.rBitOut = [.bit true] :=
  ⟨⟨_, rfl, rfl⟩, ⟨_, rfl, by decide⟩⟩

theorem witness_CountersCountTokens :
    (∃ t, coreStep encDB = .next t ∧ AboutToRun .enc encDB) ∧ (∃ t, coreStep decDB = .next t ∧ AboutToRun .dec decDB) ∧
    ∃ t, coreStep decMid = .next t ∧ ¬ AboutToRun .enc decMid ∧ ¬ AboutToRun .dec decMid :=
  ⟨⟨_, rfl, rfl, by decide⟩, ⟨_, rfl, rfl, by decide⟩, ⟨_, rfl, fun h => (by cases h.1), fun h => (by cases h.1)⟩⟩

end Sys2Proof.Tests
end

section
/-! PROOFS. TREEINFO and SRST of the register map: what the bus sees at their offsets, the fields of TREEINFO, and the
obligations O14 and O19. -/

namespace Sys2Proof.Machine

@[simp] theorem State.memRead_treeinfo (s : State) : s.memRead 0x0C = s.treeInfoWord := rfl

@[simp] theorem State.memWrite_treeinfo (s : State) (v : Word) : s.memWrite 0x0C v = s := rfl

@[simp] theorem State.memRead_srst (s : State) : s.memRead 0x28 = 0 := rfl

theorem State.memWrite_srst (s : State) (v : Word) :
    s.memWrite 0x28 v = if v.getLsbD 0 then s.blockReset else s := rfl

/-! The four fields of TREEINFO, lowest bit first (R26). -/

theorem State.treeInfoWord_treeSize_field (s : State) :
    s.treeInfoWord.extractLsb' 0 9 = BitVec.ofNat 9 s.treeSize.val :=
  BitVec.extractLsb'_append_eq_right

theorem State.treeInfoWord_low_gap (s : State) : s.treeInfoWord.extractLsb' 9 7 = 0 :=
  calc s.treeInfoWord.extractLsb' 9 7
    _ = (0#7 ++ BitVec.ofNat 9 s.root.val ++ 0#7).extractLsb' 0 7 := BitVec.extractLsb'_append_eq_of_le (by decide)
    _ = 0 := BitVec.extractLsb'_append_eq_right

theorem State.treeInfoWord_above_low_half (s : State) {start len : Nat} (h : 16 ≤ start) :
    s.treeInfoWord.extractLsb' start len =
      (0#7 ++ BitVec.ofNat 9 s.root.val).extractLsb' (start - 16) len := by
  unfold State.treeInfoWord
  rw [BitVec.extractLsb'_append_eq_of_le (by omega), BitVec.extractLsb'_append_eq_of_le (by omega), Nat.sub_sub]

theorem State.treeInfoWord_root_field (s : State) :
    s.treeInfoWord.extractLsb' 16 9 = BitVec.ofNat 9 s.root.val :=
  (s.treeInfoWord_above_low_half (by decide)).trans BitVec.extractLsb'_append_eq_right

theorem State.treeInfoWord_high_gap (s : State) : s.treeInfoWord.extractLsb' 25 7 = 0 :=
  (s.treeInfoWord_above_low_half (by decide)).trans BitVec.extractLsb'_append_eq_left

theorem State.treeInfoWord_blockReset (s : State) : s.blockReset.treeInfoWord = 0 := by
  simp [State.treeInfoWord]

/-- Settles O14: the nine bits of each field hold TREE_SIZE (at most 256) and ROOT (at most 510) without loss. -/
theorem treeInfoFields : Obligations.TreeInfoFields := by
  refine ⟨fun s => ⟨⟨?treeSize, s.treeInfoWord_low_gap, ?root, s.treeInfoWord_high_gap⟩, s.memWrite_treeinfo⟩,
    State.treeInfoWord_blockReset⟩
  case treeSize =>
    rw [State.memRead_treeinfo, State.treeInfoWord_treeSize_field, BitVec.toNat_ofNat]
    exact Nat.mod_eq_of_lt (by omega)
  case root =>
    rw [State.memRead_treeinfo, State.treeInfoWord_root_field, BitVec.toNat_ofNat]
    exact Nat.mod_eq_of_lt (by omega)

/-- Settles O19: the write with bit 0 = 1 is the block reset, which keeps the queues of the four ports. -/
theorem softResetIsReset : Obligations.SoftResetIsReset := by
  intro s v
  refine ⟨fun hv => ?reset, fun hv => ?ignored, s.memRead_srst⟩
  case reset =>
    have hreset : s.memWrite 0x28 v = s.blockReset := by rw [s.memWrite_srst, if_pos hv]
    rw [hreset]
    exact ⟨rfl, s.blockReset_seq, s.blockReset_errcode, s.blockReset_rBitOut, s.blockReset_rSymOut,
      s.blockReset_qSymIn, s.blockReset_qBitIn⟩
  case ignored => rw [s.memWrite_srst, hv, if_neg Bool.false_ne_true]

end Sys2Proof.Machine
end

section
/-! PROOFS. Illegal command words (R83, R84): the decoder refuses them, the bus accepts them like any other word, and
the first core step completes with E_ILLEGAL. The obligation O7. -/

namespace Sys2Proof

/-- A slice inside an all-zero slice is all zero. -/
theorem extractLsb'_eq_zero_of_within {w : Word} {start len a n : Nat} (h : w.extractLsb' start len = 0)
    (hlow : start ≤ a := by decide) (hhigh : a + n ≤ start + len := by decide) : w.extractLsb' a n = 0 := by
  apply BitVec.eq_of_getLsbD_eq
  intro i hi
  have hbit : (w.extractLsb' start len).getLsbD (a - start + i) = false := by rw [h]; exact BitVec.getLsbD_zero
  rw [BitVec.getLsbD_extractLsb', decide_eq_true (by omega : a - start + i < len), Bool.true_and,
    show start + (a - start + i) = a + i by omega] at hbit
  rw [BitVec.getLsbD_extractLsb', hbit, Bool.and_false]
  exact BitVec.getLsbD_zero.symm

/-- The four shapes of a word that decodes: its OP, and which bits below it are zero (R82, R87). -/
theorem decode_eq_some_cases {w : Word} {i : Instr} (h : decode w = some i) :
    ((w.extractLsb' 28 4).toNat ∈ [0, 1, 4, 5, 6, 7] ∧ w.extractLsb' 0 28 = 0) ∨
    ((w.extractLsb' 28 4).toNat ∈ [2, 3] ∧ w.extractLsb' 8 20 = 0) ∨
    ((w.extractLsb' 28 4).toNat = 8 ∧ w.extractLsb' 16 12 = 0) ∨
    ((w.extractLsb' 28 4).toNat = 9 ∧ w.extractLsb' 9 19 = 0) := by
  unfold decode at h
  split at h
  case h_11 => cases h
  all_goals
    rename_i hop
    obtain ⟨hzero, -⟩ := Option.ite_none_right_eq_some.mp h
    simp [hop, hzero]

/-! What makes the ARG checks of R82 hold, by OP. -/

theorem CommandWord.argZeros_of_arg_eq_zero {c : CommandWord} (h : c.arg = 0) : c.argZeros = true := by
  unfold CommandWord.argZeros
  split <;> simp [h]

theorem CommandWord.argZeros_of_symbol_op {c : CommandWord} (hop : c.op.toNat ∈ [2, 3])
    (h : c.arg.extractLsb' 8 8 = 0) : c.argZeros = true := by
  rcases List.mem_pair.mp hop with hop | hop <;> simp only [CommandWord.argZeros, hop, h, decide_true]

theorem CommandWord.argZeros_of_rdcode {c : CommandWord} (hop : c.op.toNat = 8) : c.argZeros = true := by
  simp only [CommandWord.argZeros, hop]

theorem CommandWord.argZeros_of_rdnode {c : CommandWord} (hop : c.op.toNat = 9)
    (h : c.arg.extractLsb' 9 7 = 0) : c.argZeros = true := by
  simp only [CommandWord.argZeros, hop, h, decide_true]

theorem CommandWord.wellFormed_of_checks {c : CommandWord} (hop : c.op.toNat < 10) (hrsv : c.rsv = 0)
    (harg : c.argZeros = true) : c.wellFormed = true := by
  simp [CommandWord.wellFormed, CommandWord.opReserved, CommandWord.zerosHold, hop, hrsv, harg]

/-- A sub-slice of ARG is the same slice of the word. -/
theorem CommandWord.ofWord_arg_slice (w : Word) {start len : Nat} (h : start + len ≤ 16 := by decide) :
    (CommandWord.ofWord w).arg.extractLsb' start len = w.extractLsb' start len :=
  BitVec.extractLsb'_extractLsb'_of_le h

theorem op_lt_ten_of_decode_eq_some {w : Word} {i : Instr} (h : decode w = some i) :
    (CommandWord.ofWord w).op.toNat < 10 := by
  obtain ⟨hop, -⟩ | ⟨hop, -⟩ | ⟨hop, -⟩ | ⟨hop, -⟩ := decode_eq_some_cases h
  · exact (by decide : ∀ n ∈ [0, 1, 4, 5, 6, 7], n < 10) _ hop
  · exact (by decide : ∀ n ∈ [2, 3], n < 10) _ hop
  · exact hop.trans_lt (by decide)
  · exact hop.trans_lt (by decide)

/-- A word that decodes is legal: every bit R82 wants zero lies inside the slice the decoder tests. -/
theorem wellFormed_of_decode_eq_some {w : Word} {i : Instr} (h : decode w = some i) :
    (CommandWord.ofWord w).wellFormed = true := by
  refine CommandWord.wellFormed_of_checks (op_lt_ten_of_decode_eq_some h) ?rsv ?arg
  case rsv =>
    obtain ⟨-, hzero⟩ | ⟨-, hzero⟩ | ⟨-, hzero⟩ | ⟨-, hzero⟩ := decode_eq_some_cases h <;>
      exact extractLsb'_eq_zero_of_within hzero
  case arg =>
    obtain ⟨-, hzero⟩ | ⟨hop, hzero⟩ | ⟨hop, -⟩ | ⟨hop, hzero⟩ := decode_eq_some_cases h
    · exact CommandWord.argZeros_of_arg_eq_zero (extractLsb'_eq_zero_of_within hzero)
    · refine CommandWord.argZeros_of_symbol_op hop ?_
      rw [CommandWord.ofWord_arg_slice]
      exact extractLsb'_eq_zero_of_within hzero
    · exact CommandWord.argZeros_of_rdcode hop
    · refine CommandWord.argZeros_of_rdnode hop ?_
      rw [CommandWord.ofWord_arg_slice]
      exact extractLsb'_eq_zero_of_within hzero

theorem decode_eq_none_of_not_wellFormed {w : Word} (h : (CommandWord.ofWord w).wellFormed = false) :
    decode w = none :=
  Option.eq_none_iff_forall_ne_some.mpr fun _ hi => Bool.false_ne_true (h.symm.trans (wellFormed_of_decode_eq_some hi))

end Sys2Proof

namespace Sys2Proof.Machine

@[simp] theorem State.memRead_cmd (s : State) : s.memRead 0x04 = s.cmd := rfl

@[simp] theorem State.memRead_status (s : State) : s.memRead 0x08 = s.statusWord := rfl

theorem State.busy_eq_false_of_idle {s : State} (h : s.seq = .idle) : s.busy = false := by
  rw [State.busy, h]

theorem State.memWrite_cmd_of_idle {s : State} (h : s.seq = .idle) (v : Word) : s.memWrite 0x04 v = s.accept v :=
  if_neg (by rw [State.busy_eq_false_of_idle h]; exact Bool.false_ne_true)

@[simp] theorem State.accept_busy (s : State) (v : Word) : (s.accept v).busy = true := rfl

/-- STATUS[0] is BUSY (R25). -/
theorem State.statusWord_bit_zero (s : State) : s.statusWord.getLsbD 0 = s.busy := by
  unfold State.statusWord
  rw [BitVec.getLsbD_append, if_pos Nat.one_pos, BitVec.getLsbD_ofBool]
  rfl

/-- The EXEC step of an illegal word completes with E_ILLEGAL (R83, R84, R100). -/
theorem coreStep_of_decode_eq_none {s : State} (hseq : s.seq = .exec) (h : decode s.lcmd = none) :
    coreStep s = .next (s.complete 1) := by
  simp only [coreStep, hseq, execStep, h, State.raise_illegal]

/-- Settles O7: acceptance does not look at the word, and the EXEC step finds that it does not decode. -/
theorem illegalWordChangesOnlyErrcode : Obligations.IllegalWordChangesOnlyErrcode := by
  intro s w hidle hbad
  rw [State.memWrite_cmd_of_idle hidle]
  refine ⟨?_, ?_, coreStep_of_decode_eq_none (s.accept_seq w) (decode_eq_none_of_not_wellFormed hbad)⟩
  · rw [State.memRead_cmd, State.accept_cmd]
  · rw [State.memRead_status, State.statusWord_bit_zero, State.accept_busy]

end Sys2Proof.Machine
end

section
/-! PROOFS. The rows of R82 in both directions: a word is OP, must-be-zero bits and operand; a word decodes to a command
exactly when it is that command's encoding; and the encodings of the commands with an operand as numbers. -/

namespace Sys2Proof

/-! A word that is zero between OP and an operand of `n` bits, put together from its slices and cut into them. -/

theorem eq_op_zeros_operand {k n op : Nat} {w : BitVec (4 + k + n)}
    (hop : (w.extractLsb' (n + k) 4).toNat = op) (hzero : w.extractLsb' n k = 0#k) :
    w = BitVec.ofNat 4 op ++ 0#k ++ w.extractLsb' 0 n := by
  rw [← hop, BitVec.ofNat_toNat, BitVec.setWidth_eq, ← hzero,
    BitVec.extractLsb'_append_extractLsb'_eq_extractLsb' rfl, BitVec.extractLsb'_append_extractLsb']

theorem eq_op_zeros {op : Nat} {w : Word} (hop : (w.extractLsb' 28 4).toNat = op) (hzero : w.extractLsb' 0 28 = 0#28) :
    w = BitVec.ofNat 4 op ++ 0#28 := by
  rw [← hop, BitVec.ofNat_toNat, BitVec.setWidth_eq, ← hzero]
  exact (BitVec.extractLsb'_append_extractLsb' (w := 4) (len := 28) (x := w)).symm

theorem slices_of_eq_op_zeros_operand {k n : Nat} {w : BitVec (4 + k + n)} {op : BitVec 4} {operand : BitVec n}
    (h : w = op ++ 0#k ++ operand) :
    w.extractLsb' (n + k) 4 = op ∧ w.extractLsb' n k = 0#k ∧ w.extractLsb' 0 n = operand := by
  subst h
  refine ⟨?op, ?zeros, BitVec.extractLsb'_append_eq_right⟩
  case op =>
    rw [BitVec.extractLsb'_append_eq_of_le (by omega), Nat.add_sub_cancel_left, BitVec.extractLsb'_append_eq_left]
  case zeros => rw [BitVec.extractLsb'_append_eq_of_le le_rfl, Nat.sub_self, BitVec.extractLsb'_append_eq_right]

/-- ARG as RDCODE's two operands (R81). -/
theorem arg_eq_append (w : Word) : w.extractLsb' 0 16 = w.extractLsb' 8 8 ++ w.extractLsb' 0 8 :=
  (BitVec.extractLsb'_append_extractLsb'_eq_extractLsb' (start₁ := 0) (len₁ := 8) rfl).symm

/-! The encoder's words in that form. -/

theorem encode_wrf_eq_append (c : Sym) : encode (.wrf c) = 2#4 ++ 0#20 ++ c :=
  BitVec.append_assoc' (x₁ := 2#4 ++ 0#12) (x₂ := 0#8)

theorem encode_rdf_eq_append (c : Sym) : encode (.rdf c) = 3#4 ++ 0#20 ++ c :=
  BitVec.append_assoc' (x₁ := 3#4 ++ 0#12) (x₂ := 0#8)

theorem encode_rdcode_eq_append (c : Sym) (k : BitVec 8) : encode (.rdcode c k) = 8#4 ++ 0#12 ++ (k ++ c) := rfl

theorem encode_rdnode_eq_append (j : BitVec 9) : encode (.rdnode j) = 9#4 ++ 0#19 ++ j :=
  BitVec.append_assoc' (x₁ := 9#4 ++ 0#12) (x₂ := 0#7)

/-- The decoder tests OP and the zero bits, and takes the operand from the rest: nothing of the word is left over. -/
theorem eq_encode_of_decode_eq_some {w : Word} {i : Instr} (h : decode w = some i) : w = encode i := by
  unfold decode at h
  split at h
  case h_11 => cases h
  all_goals
    rename_i hop
    obtain ⟨hzero, hi⟩ := Option.ite_none_right_eq_some.mp h
    cases hi
  case h_3 => exact (eq_op_zeros_operand (k := 20) (n := 8) hop hzero).trans (encode_wrf_eq_append _).symm
  case h_4 => exact (eq_op_zeros_operand (k := 20) (n := 8) hop hzero).trans (encode_rdf_eq_append _).symm
  case h_9 =>
    rw [encode_rdcode_eq_append, ← arg_eq_append]
    exact eq_op_zeros_operand (k := 12) (n := 16) hop hzero
  case h_10 => exact (eq_op_zeros_operand (k := 19) (n := 9) hop hzero).trans (encode_rdnode_eq_append _).symm
  all_goals exact (eq_op_zeros hop hzero).trans rfl

theorem decode_encode (i : Instr) : decode (encode i) = some i := by
  cases i with
  | wrf c =>
    obtain ⟨hop, hzero, hc⟩ := slices_of_eq_op_zeros_operand (k := 20) (n := 8) (encode_wrf_eq_append c)
    simp [decode, hop, hzero, hc]
  | rdf c =>
    obtain ⟨hop, hzero, hc⟩ := slices_of_eq_op_zeros_operand (k := 20) (n := 8) (encode_rdf_eq_append c)
    simp [decode, hop, hzero, hc]
  | rdcode c k =>
    obtain ⟨hop, hzero, harg⟩ := slices_of_eq_op_zeros_operand (k := 12) (n := 16) (encode_rdcode_eq_append c k)
    have hc : (encode (.rdcode c k)).extractLsb' 0 8 = c := by
      rw [← CommandWord.ofWord_arg_slice]
      exact (congrArg _ harg).trans BitVec.extractLsb'_append_eq_right
    have hk : (encode (.rdcode c k)).extractLsb' 8 8 = k := by
      rw [← CommandWord.ofWord_arg_slice]
      exact (congrArg _ harg).trans BitVec.extractLsb'_append_eq_left
    simp [decode, hop, hzero, hc, hk]
  | rdnode j =>
    obtain ⟨hop, hzero, hj⟩ := slices_of_eq_op_zeros_operand (k := 19) (n := 9) (encode_rdnode_eq_append j)
    simp [decode, hop, hzero, hj]
  | _ => rfl

/-- R82: each command has one word, and no other word decodes to it. -/
theorem decode_eq_some_iff {w : Word} {i : Instr} : decode w = some i ↔ w = encode i :=
  ⟨eq_encode_of_decode_eq_some, fun h => h ▸ decode_encode i⟩

/-! The encodings as the numbers R103 to R106 give. -/

theorem setWidth_append_eq_or {m n : Nat} (width : Nat) (hi : BitVec m) (lo : BitVec n) :
    (hi ++ lo).setWidth width = hi.setWidth width <<< n ||| lo.setWidth width := by
  apply BitVec.eq_of_getLsbD_eq
  intro i hw
  by_cases hn : i < n
  · simp [BitVec.getLsbD_append, hw, hn]
  · have hlo : lo.getLsbD i = false := BitVec.getLsbD_of_ge _ _ (not_lt.mp hn)
    simp [BitVec.getLsbD_append, hw, hn, hlo]

theorem encode_wrf (c : Sym) : encode (.wrf c) = 0x20000000 ||| c.setWidth 32 := (encode_wrf_eq_append c).trans rfl

theorem encode_rdf (c : Sym) : encode (.rdf c) = 0x30000000 ||| c.setWidth 32 := (encode_rdf_eq_append c).trans rfl

theorem encode_rdcode (c : Sym) (k : BitVec 8) :
    encode (.rdcode c k) = 0x80000000 ||| k.setWidth 32 <<< 8 ||| c.setWidth 32 := by
  have hop (arg : BitVec 16) : 8#4 ++ 0#12 ++ arg = (0x80000000 : Word) ||| arg.setWidth 32 := rfl
  rw [encode_rdcode_eq_append, BitVec.or_assoc, ← setWidth_append_eq_or]
  exact hop (k ++ c)

theorem encode_rdnode (j : BitVec 9) : encode (.rdnode j) = 0x90000000 ||| j.setWidth 32 :=
  (encode_rdnode_eq_append j).trans rfl

end Sys2Proof
end

section
/-! PROOFS. The EXEC step and the commands of spec/40_table_access.md: how the step dispatches, how each command leaves
the sequencer, and the values the reads put in RES0 to RES3. The obligations O6, O25, O27, O28, O23, O24 and O26. -/

namespace Sys2Proof.Machine

open Sys2Proof.Safety

/-! The EXEC step (R100). -/

theorem coreEnabled_of_exec {s : State} (hseq : s.seq = .exec) : coreEnabled s = true := by
  simp only [coreEnabled, hseq]

theorem coreStep_of_decode_eq_some {s : State} {i : Instr} (hseq : s.seq = .exec) (h : decode s.lcmd = some i) :
    coreStep s = exec i s := by
  simp only [coreStep, hseq, execStep, h]

/-! RDCODE and RDNODE on each side of their range checks (R85). -/

theorem exec_rdcode_of_gt {k : BitVec 8} (hk : 7 < k.toNat) (c : Sym) (s : State) :
    exec (.rdcode c k) s = .next (s.complete 2) :=
  if_pos hk

theorem exec_rdcode_of_le {k : BitVec 8} (hk : k.toNat ≤ 7) (c : Sym) (s : State) :
    exec (.rdcode c k) s =
      .next ((s.setRes ((s.lenAt c).setWidth 32) (codeWord (s.codeAt c) k.toNat) 0 0).complete 0) :=
  if_neg (not_lt.mpr hk)

theorem exec_rdnode_of_ge {j : BitVec 9} {s : State} (hj : s.nodeCount ≤ j.toNat) :
    exec (.rdnode j) s = .next (s.complete 2) :=
  if_pos hj

theorem exec_rdnode_of_lt {j : BitVec 9} {s : State} (hj : j.toNat < s.nodeCount) :
    exec (.rdnode j) s = .next ((s.setResNode (s.nodeAt (nodeIx j.toNat))).complete 0) :=
  if_neg (not_le.mpr hj)

/-! The sequencer after the EXEC step (R64, R100). -/

/-- A command that is over in its EXEC step ends it with `complete(e)`. -/
theorem exists_complete_of_exec_singleStep {i : Instr} {s t : State} (hi : SingleStep i) (h : exec i s = .next t) :
    ∃ e u, t = State.complete e u := by
  cases i
  case enc => exact absurd rfl hi.1
  case dec => exact absurd rfl hi.2
  case genc =>
    obtain ⟨tab, -, rfl⟩ := (execGenc_eq_next_iff s t).mp h
    exact ⟨0, { s with len := tab.len, code := tab.code, codesValid := true }, rfl⟩
  case rdcode c k =>
    obtain hk | hk := lt_or_ge 7 k.toNat
    · cases (exec_rdcode_of_gt hk c s).symm.trans h
      exact ⟨_, _, rfl⟩
    · cases (exec_rdcode_of_le hk c s).symm.trans h
      exact ⟨_, _, rfl⟩
  case rdnode j =>
    obtain hj | hj := le_or_gt s.nodeCount j.toNat
    · cases (exec_rdnode_of_ge hj).symm.trans h
      exact ⟨_, _, rfl⟩
    · cases (exec_rdnode_of_lt hj).symm.trans h
      exact ⟨_, _, rfl⟩
  all_goals
    cases h
    exact ⟨_, _, rfl⟩

theorem exec_seq_of_singleStep {i : Instr} {s t : State} (hi : SingleStep i) (h : exec i s = .next t) :
    t.seq = .idle := by
  obtain ⟨e, u, rfl⟩ := exists_complete_of_exec_singleStep hi h
  exact u.complete_seq e

theorem exec_busy_of_not_singleStep {i : Instr} {s t : State} (hi : ¬ SingleStep i) (h : exec i s = .next t) :
    t.busy = true := by
  rw [State.busy_eq_true_iff]
  obtain rfl | rfl : i = .enc ∨ i = .dec := by simpa only [SingleStep, ne_eq, not_and_or, not_not] using hi
  case inl =>
    cases h
    rw [State.setSeq_seq]
    exact SeqState.noConfusion
  case inr =>
    cases h
    rw [State.setSeq_seq]
    split <;> exact SeqState.noConfusion

/-- Settles O6, by what the EXEC step does with a word that decodes and with one that does not. -/
theorem execStepDispatch : Obligations.ExecStepDispatch := by
  refine ⟨fun s v hidle => ?accept, fun s hseq => ⟨coreEnabled_of_exec hseq, coreStep_of_decode_eq_none hseq,
    fun i hi => ⟨coreStep_of_decode_eq_some hseq hi, fun t ht =>
      ⟨fun h => exec_seq_of_singleStep h ht, fun h => exec_busy_of_not_singleStep h ht⟩⟩⟩⟩
  rw [State.memWrite_cmd_of_idle hidle]
  exact ⟨s.accept_seq v, s.accept_lcmd v⟩

/-! RES0 to RES3 as numbers (R105, R106). -/

theorem codeWord_eq_ofNat (c : CodeBits) (k : Nat) : codeWord c k = BitVec.ofNat 32 (c.toNat / 2 ^ (32 * k)) := by
  rw [codeWord, ← BitVec.ofNat_toNat, BitVec.toNat_ushiftRight, Nat.shiftRight_eq_div_pow]

/-- A word that lies wholly above the codeword's length is 0. -/
theorem codeWord_eq_zero {c : CodeBits} {l k : Nat} (hc : c.toNat < 2 ^ l) (hl : l ≤ 32 * k) : codeWord c k = 0 := by
  rw [codeWord_eq_ofNat, Nat.div_eq_of_lt (hc.trans_le (Nat.pow_le_pow_right two_pos hl))]
  rfl

theorem weight_high_word (w : Weight) : (w.extractLsb' 32 8).setWidth 32 = BitVec.ofNat 32 (w.toNat / 2 ^ 32) := by
  have hhigh : w.toNat / 2 ^ 32 < 2 ^ 8 := Nat.div_lt_of_lt_mul w.isLt
  rw [← BitVec.ofNat_toNat, BitVec.extractLsb'_toNat, Nat.shiftRight_eq_div_pow, Nat.mod_eq_of_lt hhigh]

/-- KIND in bit 31 does not meet a node index (R106). -/
theorem kindBit_or_child (l : NodeIx) :
    (0x80000000 : Word) ||| BitVec.ofNat 32 l.val = BitVec.ofNat 32 (2 ^ 31 + l.val) := by
  have hl : l.val < 2 ^ 31 := l.isLt.trans (by decide)
  have hadd : 2 ^ 31 + l.val = 2 ^ 31 ||| l.val := by simpa using Nat.two_pow_add_eq_or_of_lt hl 1
  rw [hadd, BitVec.ofNat_or]
  rfl

theorem State.setResNode_leaf (s : State) (c : Sym) (w : Weight) :
    s.setResNode (.leaf c w) =
      s.setRes (BitVec.ofNat 32 c.toNat) 0 (BitVec.ofNat 32 w.toNat) (BitVec.ofNat 32 (w.toNat / 2 ^ 32)) := by
  rw [State.setResNode, weight_high_word, BitVec.ofNat_toNat]
  rfl

theorem State.setResNode_internal (s : State) (l r : NodeIx) (w : Weight) :
    s.setResNode (.internal l r w) =
      s.setRes (BitVec.ofNat 32 (2 ^ 31 + l.val)) (BitVec.ofNat 32 r.val) (BitVec.ofNat 32 w.toNat)
        (BitVec.ofNat 32 (w.toNat / 2 ^ 32)) := by
  rw [State.setResNode, weight_high_word, kindBit_or_child]
  rfl

theorem nodeIx_eq_of_val_eq {n : NodeIx} {k : Nat} (h : n.val = k) : nodeIx k = n :=
  Fin.ext (h ▸ nodeIx_val n.isLt)

/-! The commands. -/

/-- A command whose encoding is the word `v` is decoded from `v` alone. -/
theorem decode_eq_some_iff_of_encode {i : Instr} {v : Word} (h : encode i = v) (w : Word) :
    decode w = some i ↔ w = v :=
  h ▸ decode_eq_some_iff

/-- Settles O25: a read of FREQ after the write of one entry. -/
theorem wrfResult : Obligations.WrfResult := by
  refine ⟨fun w c => decode_eq_some_iff_of_encode (encode_wrf c) w, fun s c =>
    ⟨(s.setFreq c s.ldata).complete 0, rfl, ?same, fun b hb => ?other, rfl⟩⟩
  all_goals rw [State.freqAt_congr (State.complete_freq _ _), State.freqAt_setFreq]
  case same => exact if_pos rfl
  case other => exact if_neg hb.symm

/-- Settles O27, on each side of the range check and for a word above the codeword's length. -/
theorem rdcodeResult : Obligations.RdcodeResult := by
  refine ⟨fun w c k => decode_eq_some_iff_of_encode (encode_rdcode c k) w, fun s c k =>
    ⟨fun hk => exec_rdcode_of_gt hk c s, fun hk => ?value, fun hk hfits hlen => ?above⟩⟩
  case value =>
    rw [exec_rdcode_of_le hk, codeWord_eq_ofNat, ← BitVec.ofNat_toNat]
    rfl
  case above => exact ⟨_, exec_rdcode_of_le hk c s, codeWord_eq_zero hfits hlen⟩

/-- Settles O28, on each side of the range check and for both kinds of node. -/
theorem rdnodeResult : Obligations.RdnodeResult := by
  refine ⟨fun w i => decode_eq_some_iff_of_encode (encode_rdnode i) w, fun s i =>
    ⟨exec_rdnode_of_ge, fun j hj hlt => ?below⟩⟩
  rw [exec_rdnode_of_lt (hj ▸ hlt), nodeIx_eq_of_val_eq hj]
  refine ⟨fun c w hleaf => ?leaf, fun l r w hinternal => ?internal⟩
  case leaf =>
    rw [hleaf, State.setResNode_leaf]
    rfl
  case internal =>
    rw [hinternal, State.setResNode_internal]
    rfl

/-- Settles O23: the step is `complete(0)` and nothing before it. -/
theorem nopResult : Obligations.NopResult :=
  ⟨decode_eq_some_iff_of_encode rfl, fun _ => rfl⟩

/-- Settles O24: every read of the emptied table gives its reset entry 0. -/
theorem clrfResult : Obligations.ClrfResult := by
  refine ⟨decode_eq_some_iff_of_encode rfl, fun s =>
    ⟨State.complete 0 { s with freq := [] }, rfl, fun c => ?cleared, rfl⟩⟩
  rw [State.freqAt_congr (State.complete_freq _ _), State.freqAt_clear]

/-- Settles O26: the step is the write of RES0 to RES3 and `complete(0)`. -/
theorem rdfResult : Obligations.RdfResult :=
  ⟨fun w c => decode_eq_some_iff_of_encode (encode_rdf c) w, fun _ _ => rfl⟩

end Sys2Proof.Machine
end

section
/-! PROOFS. The queue of BUILD (R122, R123): the weights a dequeue compares, the tied set and what a draw takes from it,
a dequeue, a turn of the merge loop and the loop itself. The obligations O33 and O34. -/

namespace Sys2Proof.Machine

/-! The least weight and the tied set of a queue (R122). -/

theorem lighter_le_left (a b : Weight) : lighter a b ≤ a := by
  unfold lighter
  split <;> bv_omega

theorem lighter_le_right (a b : Weight) : lighter a b ≤ b := by
  unfold lighter
  split <;> bv_omega

theorem lighter_eq_or (a b : Weight) : lighter a b = a ∨ lighter a b = b :=
  ite_eq_or_eq _ _ _

theorem minWeight_le (node : Table Node) (i : NodeIx) (q : List NodeIx) :
    ∀ j ∈ i :: q, minWeight node i q ≤ weightAt node j := by
  induction q generalizing i with
  | nil =>
    intro j hj
    rw [List.mem_singleton.mp hj]
    exact BitVec.le_refl _
  | cons k q ih =>
    intro j hj
    obtain rfl | hj := List.mem_cons.mp hj
    · exact lighter_le_left _ _
    · exact BitVec.le_trans (lighter_le_right _ _) (ih k j hj)

theorem exists_weightAt_eq_minWeight (node : Table Node) (i : NodeIx) (q : List NodeIx) :
    ∃ j ∈ i :: q, weightAt node j = minWeight node i q := by
  induction q generalizing i with
  | nil => exact ⟨i, List.mem_singleton_self i, rfl⟩
  | cons k q ih =>
    obtain heq | heq := lighter_eq_or (weightAt node i) (minWeight node k q)
    · exact ⟨i, List.mem_cons_self, heq.symm⟩
    · obtain ⟨j, hj, hjw⟩ := ih k
      exact ⟨j, List.mem_cons_of_mem i hj, hjw.trans heq.symm⟩

/-- `a` is an index of the queue that no other is lighter than: an element of R122's set C. -/
def IsLightest (node : Table Node) (q : List NodeIx) (a : NodeIx) : Prop :=
  a ∈ q ∧ ∀ i ∈ q, weightAt node a ≤ weightAt node i

theorem mem_tiedMinima_iff {node : Table Node} {q : List NodeIx} {a : NodeIx} :
    a ∈ tiedMinima node q ↔ IsLightest node q a := by
  cases q with
  | nil => simp [tiedMinima, IsLightest]
  | cons i q =>
    simp only [tiedMinima, List.mem_filter, decide_eq_true_eq, IsLightest, and_congr_right_iff]
    intro ha
    constructor
    · intro h j hj
      exact h ▸ minWeight_le node i q j hj
    · intro h
      obtain ⟨j, hj, hjw⟩ := exists_weightAt_eq_minWeight node i q
      exact BitVec.le_antisymm (hjw ▸ h j hj) (minWeight_le node i q a ha)

theorem tiedMinima_ne_nil {node : Table Node} {q : List NodeIx} (h : q ≠ []) : tiedMinima node q ≠ [] := by
  obtain ⟨i, q, rfl⟩ := List.exists_cons_of_ne_nil h
  obtain ⟨j, hj, hjw⟩ := exists_weightAt_eq_minWeight node i q
  exact List.ne_nil_of_mem (mem_tiedMinima_iff.mpr ⟨hj, hjw ▸ minWeight_le node i q⟩)

/-! What a draw takes from the tied set. -/

theorem drawFrom_eq_getElem (d : Nat) {l : List NodeIx} (h : l ≠ []) :
    drawFrom d l = l[d % l.length]'(Nat.mod_lt _ (List.length_pos_iff.mpr h)) := by
  match l with
  | [a] => simp [drawFrom, Nat.mod_one]
  | a :: b :: c => exact List.getD_eq_getElem (a :: b :: c) a (Nat.mod_lt d (Nat.succ_pos (c.length + 1)))

theorem drawFrom_mem (d : Nat) {l : List NodeIx} (h : l ≠ []) : drawFrom d l ∈ l :=
  drawFrom_eq_getElem d h ▸ List.getElem_mem _

/-- Every element of the tied set is drawn by some value of the oracle, its position for one. -/
theorem exists_drawFrom_eq {l : List NodeIx} {a : NodeIx} (h : a ∈ l) : ∃ d, drawFrom d l = a := by
  obtain ⟨d, hd, rfl⟩ := List.mem_iff_getElem.mp h
  refine ⟨d, ?_⟩
  simp only [drawFrom_eq_getElem d (List.ne_nil_of_mem h), Nat.mod_eq_of_lt hd]

/-! A dequeue (R122). -/

theorem Forest.dequeue_snd (sel : Nat → Nat) (f : Forest) :
    (f.dequeue sel).2 = { f with queue := f.queue.erase (f.dequeue sel).1, draws := f.draws + 1 } := rfl

theorem Forest.dequeue_isLightest (sel : Nat → Nat) {f : Forest} (h : f.queue ≠ []) :
    IsLightest f.node f.queue (f.dequeue sel).1 :=
  mem_tiedMinima_iff.mp (drawFrom_mem _ (tiedMinima_ne_nil h))

theorem Forest.exists_dequeue_eq {f : Forest} {a : NodeIx} (h : IsLightest f.node f.queue a) :
    ∃ sel : Nat → Nat, (f.dequeue sel).1 = a := by
  obtain ⟨d, hd⟩ := exists_drawFrom_eq (mem_tiedMinima_iff.mpr h)
  exact ⟨fun _ => d, hd⟩

/-! A turn of the merge loop, and the loop (R123). -/

theorem Forest.merge_eq (sel : Nat → Nat) (f : Forest) {a b : NodeIx} (ha : (f.dequeue sel).1 = a)
    (hb : ((f.dequeue sel).2.dequeue sel).1 = b) :
    f.merge sel =
      { node := tableSet blankNode f.node f.next (.internal a b (weightAt f.node a + weightAt f.node b))
        next := f.next + 1
        queue := (f.queue.erase a).erase b ++ [nodeIx f.next]
        draws := f.draws + 2 } := by
  subst ha hb
  rfl

/-- Everything a turn of the merge loop does: the two dequeues are of lightest indices, the second from what the first
leaves. -/
theorem Forest.merge_cases (sel : Nat → Nat) {f : Forest} (h : 2 ≤ f.queue.length) :
    ∃ a b, IsLightest f.node f.queue a ∧ IsLightest f.node (f.queue.erase a) b ∧
      f.merge sel =
        { node := tableSet blankNode f.node f.next (.internal a b (weightAt f.node a + weightAt f.node b))
          next := f.next + 1
          queue := (f.queue.erase a).erase b ++ [nodeIx f.next]
          draws := f.draws + 2 } := by
  have ha := f.dequeue_isLightest sel (List.ne_nil_of_length_pos (by omega))
  have hrest : (f.dequeue sel).2.queue ≠ [] := by
    apply List.ne_nil_of_length_pos
    rw [f.dequeue_snd, List.length_erase_of_mem ha.1]
    omega
  exact ⟨_, _, ha, (f.dequeue sel).2.dequeue_isLightest sel hrest, f.merge_eq sel rfl rfl⟩

/-- A turn writes one node, at `next`, and leaves every other as it is. -/
theorem Forest.merge_node_of_ne (sel : Nat → Nat) (f : Forest) {j : Nat} (h : j ≠ f.next) :
    tableGet blankNode (f.merge sel).node j = tableGet blankNode f.node j := by
  rw [f.merge_eq sel rfl rfl, tableGet_set, if_neg h.symm]

theorem Forest.merge_next (sel : Nat → Nat) (f : Forest) : (f.merge sel).next = f.next + 1 := rfl

theorem Forest.mergeLoop_succ_of_two_le (sel : Nat → Nat) (k : Nat) {f : Forest} (h : 2 ≤ f.queue.length) :
    Forest.mergeLoop sel (k + 1) f = Forest.mergeLoop sel k (f.merge sel) := by
  match hq : f.queue with
  | [] | [_] => simp [hq] at h
  | _ :: _ :: _ => simp only [Forest.mergeLoop, hq]

theorem Forest.mergeLoop_of_lt_two (sel : Nat → Nat) (k : Nat) {f : Forest} (h : f.queue.length < 2) :
    Forest.mergeLoop sel k f = f := by
  cases k with
  | zero => rfl
  | succ k =>
    match hq : f.queue with
    | [] | [_] => simp only [Forest.mergeLoop, hq]
    | _ :: _ :: _ => simp [hq] at h

/-- The loop writes no node below `next`. -/
theorem Forest.mergeLoop_node_of_lt (sel : Nat → Nat) (k : Nat) (f : Forest) {j : Nat} (h : j < f.next) :
    tableGet blankNode (Forest.mergeLoop sel k f).node j = tableGet blankNode f.node j := by
  induction k generalizing f with
  | zero => rfl
  | succ k ih =>
    obtain hq | hq := Nat.lt_or_ge f.queue.length 2
    · rw [Forest.mergeLoop_of_lt_two sel _ hq]
    · rw [Forest.mergeLoop_succ_of_two_le sel k hq, ih (f.merge sel) (by rw [f.merge_next]; omega),
        f.merge_node_of_ne sel h.ne]

/-! The symbols of the table and the forest BUILD starts from (R121, R122). -/

/-- The length of `syms` is at most the 256 letters, so a leaf index, TREE_SIZE and `next` all fit (R124). -/
theorem presentSyms_length_le (freq : Table Word) : (presentSyms freq).length ≤ 256 :=
  (List.length_filter_le _ _).trans_eq (by simp [allSyms])

theorem seedForest_queue_val (freq : Table Word) (node : Table Node) (draws : Nat) :
    (seedForest freq node draws).queue.map (·.val) = List.range (presentSyms freq).length := by
  have hn := presentSyms_length_le freq
  rw [seedForest, List.map_map]
  refine List.map_congr_left (fun k hk => ?_) |>.trans (List.map_id _)
  have hk := List.mem_range.mp hk
  exact nodeIx_val (by omega)

/-- Settles O33: the index drawn is one of the tied minima, and each of those is at some position. -/
theorem dequeueTakesAnyTiedMinimum : Obligations.DequeueTakesAnyTiedMinimum := by
  refine ⟨fun s => seedForest_queue_val s.freq s.node s.draws, fun sel f hq => ?removed,
    fun f a ha hmin => Forest.exists_dequeue_eq ⟨ha, hmin⟩⟩
  obtain ⟨hmem, hmin⟩ := Forest.dequeue_isLightest sel hq
  exact ⟨hmem, hmin, f.dequeue_snd sel⟩

/-- Settles O34: a turn is two dequeues and the write of one node. -/
theorem mergeJoinsTwoLightest : Obligations.MergeJoinsTwoLightest := by
  refine ⟨fun _ => rfl, fun sel k f => ⟨Forest.mergeLoop_succ_of_two_le sel k, Forest.mergeLoop_of_lt_two sel k⟩,
    fun sel f hq hnext => ?turn⟩
  obtain ⟨a, b, ⟨ha, hamin⟩, ⟨hb, hbmin⟩, hmerge⟩ := Forest.merge_cases sel hq
  refine ⟨a, b, ha, hamin, hb, hbmin, f.merge_next sel, ?draws, ?queue, ?node, fun j => f.merge_node_of_ne sel⟩
  case draws => rw [hmerge]
  case queue => rw [hmerge, List.map_append, List.map_singleton, nodeIx_val hnext]
  case node => rw [hmerge, tableGet_set, if_pos rfl]

end Sys2Proof.Machine
end

section
/-! PROOFS. The result of BUILD (R120, R121, R125): the leaves it seeds and that its merges keep, and the tables with no
merge. The obligations O30 and O32. -/

namespace Sys2Proof.Machine

/-! The seeded leaves (R121). -/

theorem seedLeaves_of_lt (freq : Table Word) (syms : List Sym) (k : Nat) (node : Table Node) {j : Nat} (h : j < k) :
    tableGet blankNode (seedLeaves freq syms k node) j = tableGet blankNode node j := by
  induction syms generalizing k node with
  | nil => rfl
  | cons c syms ih => rw [seedLeaves, ih _ _ (h.trans k.lt_succ_self), tableGet_set, if_neg h.ne']

theorem seedLeaves_getElem (freq : Table Word) (syms : List Sym) (k : Nat) (node : Table Node) {i : Nat}
    (h : i < syms.length) :
    tableGet blankNode (seedLeaves freq syms k node) (k + i) =
      .leaf syms[i] ((tableGet 0 freq syms[i].toNat).setWidth 40) := by
  induction syms generalizing k node i with
  | nil => cases h
  | cons c syms ih =>
    rw [seedLeaves]
    cases i with
    | zero =>
      rw [k.add_zero, seedLeaves_of_lt _ _ _ _ k.lt_succ_self, tableGet_set, if_pos rfl]
      rfl
    | succ i =>
      rw [← Nat.add_assoc, Nat.add_right_comm]
      exact ih (k + 1) _ (Nat.lt_of_succ_lt_succ h)

/-! The symbols of the table. -/

theorem allSyms_ascending : allSyms.Pairwise (fun c d => c.toNat < d.toNat) := by
  refine List.pairwise_map.mpr (List.pairwise_lt_range.imp_of_mem fun {a b} ha hb hab => ?_)
  have ha := List.mem_range.mp ha
  have hb := List.mem_range.mp hb
  simpa [BitVec.toNat_ofNat, Nat.mod_eq_of_lt ha, Nat.mod_eq_of_lt hb] using hab

theorem presentSyms_ascending (freq : Table Word) : (presentSyms freq).Pairwise (fun c d => c.toNat < d.toNat) :=
  allSyms_ascending.filter _

theorem presentSyms_nodup (freq : Table Word) : (presentSyms freq).Nodup :=
  (presentSyms_ascending freq).imp fun h heq => h.ne (congrArg _ heq)

theorem presentSyms_eq_nil {freq : Table Word} (h : ∀ c : Sym, tableGet 0 freq c.toNat = 0) : presentSyms freq = [] :=
  List.eq_nil_iff_forall_not_mem.mpr fun c hc => (mem_presentSyms_iff freq c).mp hc (h c)

theorem presentSyms_eq_singleton {freq : Table Word} {c : Sym} (hc : tableGet 0 freq c.toNat ≠ 0)
    (h : ∀ b : Sym, b ≠ c → tableGet 0 freq b.toNat = 0) : presentSyms freq = [c] := by
  refine List.perm_singleton.mp ((List.perm_ext_iff_of_nodup (presentSyms_nodup freq) (List.nodup_singleton c)).mpr
    fun b => ?_)
  rw [mem_presentSyms_iff, List.mem_singleton]
  exact ⟨fun hb => by_contra fun hne => hb (h b hne), fun hb => hb ▸ hc⟩

/-! The tree BUILD leaves. -/

theorem State.buildTree_treeSize_val (sel : Nat → Nat) (s : State) :
    (s.buildTree sel).treeSize.val = (presentSyms s.freq).length :=
  Nat.mod_eq_of_lt (Nat.lt_succ_of_le (presentSyms_length_le s.freq))

/-- The leaves are seeded below `next`, where the merges write nothing. -/
theorem State.buildTree_nodeAt_leaf (sel : Nat → Nat) (s : State) (k : NodeIx)
    (h : k.val < (presentSyms s.freq).length) :
    (s.buildTree sel).nodeAt k =
      .leaf (presentSyms s.freq)[k.val] ((s.freqAt (presentSyms s.freq)[k.val]).setWidth 40) := by
  have hseed := seedLeaves_getElem s.freq (presentSyms s.freq) 0 s.node h
  rw [Nat.zero_add] at hseed
  exact (Forest.mergeLoop_node_of_lt sel _ (seedForest s.freq s.node s.draws) h).trans hseed

/-- With fewer than two symbols there is no merge (R125). -/
theorem State.buildTree_of_lt_two (sel : Nat → Nat) (s : State) (h : (presentSyms s.freq).length < 2) :
    (s.buildTree sel).node = seedLeaves s.freq (presentSyms s.freq) 0 s.node ∧ (s.buildTree sel).root.val = 0 ∧
      (s.buildTree sel).draws = s.draws := by
  have hloop : Forest.mergeLoop sel (presentSyms s.freq).length (seedForest s.freq s.node s.draws) =
      seedForest s.freq s.node s.draws :=
    Forest.mergeLoop_of_lt_two sel _ (by simpa [seedForest] using h)
  refine ⟨congrArg Forest.node hloop, ?root, congrArg Forest.draws hloop⟩
  have hroot : (s.buildTree sel).root = ((List.range (presentSyms s.freq).length).map nodeIx).headD 0 :=
    congrArg (fun f : Forest => f.queue.headD 0) hloop
  rw [hroot]
  interval_cases (presentSyms s.freq).length <;> rfl

/-- Settles O30: the step is `buildTree` and `complete(0)`; the merges keep the seeded leaves. -/
theorem buildCompletes : Obligations.BuildCompletes := by
  refine ⟨decode_eq_some_iff_of_encode rfl, fun s => ⟨_, rfl, rfl, rfl, rfl, rfl, fun c => ⟨rfl, rfl⟩,
    ⟨s.buildTree_treeSize_val Config.tieSel, fun hsyms => ?root, s.buildTree_nodeAt_leaf Config.tieSel⟩,
    rfl, ⟨rfl, rfl, rfl, rfl⟩, ⟨rfl, rfl⟩, ⟨rfl, rfl, rfl, rfl⟩, ⟨rfl, rfl⟩, ⟨rfl, rfl⟩,
    ⟨rfl, rfl, rfl, rfl, rfl⟩, ⟨rfl, rfl, rfl, rfl, rfl⟩, rfl⟩⟩
  have hlen : (presentSyms s.freq).length < 2 := by rw [show presentSyms s.freq = [] from hsyms]; decide
  obtain ⟨-, hroot, -⟩ := s.buildTree_of_lt_two Config.tieSel hlen
  exact hroot

/-- Settles O32: the list of symbols is empty or the one symbol, so no turn of the merge loop is taken. -/
theorem buildOfEmptyAndSingletonTables : Obligations.BuildOfEmptyAndSingletonTables := by
  intro sel s
  refine ⟨fun hzero => ?empty, fun c hc hothers => ?singleton⟩
  case empty =>
    have hsyms : presentSyms s.freq = [] := presentSyms_eq_nil hzero
    obtain ⟨hnode, hroot, -⟩ := s.buildTree_of_lt_two sel (by rw [hsyms]; decide)
    rw [hsyms] at hnode
    exact ⟨(s.buildTree_treeSize_val sel).trans (congrArg _ hsyms), hroot, hnode⟩
  case singleton =>
    have hsyms : presentSyms s.freq = [c] := presentSyms_eq_singleton hc hothers
    have hsize : (s.buildTree sel).treeSize.val = 1 := (s.buildTree_treeSize_val sel).trans (congrArg _ hsyms)
    obtain ⟨-, hroot, hdraws⟩ := s.buildTree_of_lt_two sel (by rw [hsyms]; exact Nat.one_lt_two)
    refine ⟨hsize, hroot, ?leaf, ?count, hdraws⟩
    case leaf =>
      have hleaf := s.buildTree_nodeAt_leaf sel 0 (by rw [hsyms]; exact Nat.one_pos)
      simp only [hsyms] at hleaf
      exact hleaf
    case count => rw [State.nodeCount, hsize]; rfl

end Sys2Proof.Machine
end

section
/-! PROOFS. Bit strings through the node arena: which node a string leads to, and that in a tree BUILD leaves (R34, R126)
each node is led to by exactly one string from the root and each symbol stands on at most one leaf. -/

namespace Sys2Proof.Safety

open Sys2Proof.Machine

/-! The child a bit chooses. -/

theorem child_lt {l r : NodeIx} {k : Nat} (hl : l.val < k) (hr : r.val < k) (b : Bool) :
    (if b then r else l).val < k := by
  split
  · exact hr
  · exact hl

theorem child_injective {l r : NodeIx} (h : l ≠ r) : Function.Injective fun b : Bool => if b then r else l :=
  Bool.injective_iff.mpr h

theorem exists_child_eq_iff {l r i : NodeIx} :
    (∃ b : Bool, (if b then r else l) = i) ↔ l.val = i.val ∨ r.val = i.val := by
  simp [Fin.ext_iff]

/-! The node a bit string leads to. -/

section
variable {node : Table Node} {i j l r : NodeIx} {c d : Sym} {w : Weight}

@[simp] theorem pathFrom_nil (node : Table Node) (i : NodeIx) : pathFrom node i [] = some i := rfl

theorem pathFrom_cons_of_leaf (hn : tableGet blankNode node i.val = .leaf c w) (b : Bool) (p : List Bool) :
    pathFrom node i (b :: p) = none := by
  simp only [pathFrom, hn]

theorem pathFrom_cons_of_internal (hn : tableGet blankNode node i.val = .internal l r w) (b : Bool) (p : List Bool) :
    pathFrom node i (b :: p) = pathFrom node (if b then r else l) p := by
  simp only [pathFrom, hn]

theorem pathFrom_append (node : Table Node) (i : NodeIx) (p q : List Bool) :
    pathFrom node i (p ++ q) = (pathFrom node i p).bind fun k => pathFrom node k q := by
  induction p generalizing i with
  | nil => rfl
  | cons b p ih =>
    rw [List.cons_append]
    cases hn : tableGet blankNode node i.val with
    | leaf c w =>
      rw [pathFrom_cons_of_leaf hn, pathFrom_cons_of_leaf hn]
      rfl
    | internal l r w =>
      rw [pathFrom_cons_of_internal hn, pathFrom_cons_of_internal hn]
      exact ih _

theorem pathFrom_singleton_eq_some_iff {b : Bool} : pathFrom node i [b] = some j ↔
    ∃ l r w, tableGet blankNode node i.val = .internal l r w ∧ (if b then r else l) = j := by
  cases hn : tableGet blankNode node i.val with
  | leaf c w => simp [pathFrom_cons_of_leaf hn]
  | internal l r w => simp [pathFrom_cons_of_internal hn]

/-- The last step of a bit string goes from an internal node to the child its last bit chooses. -/
theorem pathFrom_concat_eq_some_iff {p : List Bool} {b : Bool} : pathFrom node i (p ++ [b]) = some j ↔
    ∃ k, pathFrom node i p = some k ∧
      ∃ l r w, tableGet blankNode node k.val = .internal l r w ∧ (if b then r else l) = j := by
  simp only [pathFrom_append, Option.bind_eq_some_iff, pathFrom_singleton_eq_some_iff]

/-- The bit string `p` leads from `i` to a leaf of the symbol `c`. -/
def LeadsToLeaf (node : Table Node) (i : NodeIx) (p : List Bool) (c : Sym) : Prop :=
  ∃ j w, pathFrom node i p = some j ∧ tableGet blankNode node j.val = .leaf c w

theorem leadsToLeaf_iff_of_leaf (hn : tableGet blankNode node i.val = .leaf d w) {p : List Bool} :
    LeadsToLeaf node i p c ↔ p = [] ∧ d = c := by
  cases p with
  | nil => simp [LeadsToLeaf, hn]
  | cons b p => simp [LeadsToLeaf, pathFrom_cons_of_leaf hn]

theorem not_leadsToLeaf_nil_of_internal (hn : tableGet blankNode node i.val = .internal l r w) :
    ¬ LeadsToLeaf node i [] c := by
  simp [LeadsToLeaf, hn]

theorem leadsToLeaf_cons_iff (hn : tableGet blankNode node i.val = .internal l r w) {b : Bool} {p : List Bool} :
    LeadsToLeaf node i (b :: p) c ↔ LeadsToLeaf node (if b then r else l) p c := by
  simp only [LeadsToLeaf, pathFrom_cons_of_internal hn]

end

/-! The tree BUILD leaves. -/

section
variable {size : Nat} {root : NodeIx} {node : Table Node}

/-- A node of the tree is a leaf below `size` or an internal node, with two different lower children, from there on. -/
theorem TreeWf.node_cases (h : TreeWf size root node) {j : Nat} (hj : j < 2 * size - 1) :
    (j < size ∧ ∃ c w, tableGet blankNode node j = .leaf c w) ∨
    (size ≤ j ∧ ∃ l r w, tableGet blankNode node j = .internal l r w ∧ l.val < j ∧ r.val < j ∧ l ≠ r) := by
  obtain hlt | hge := Nat.lt_or_ge j size
  · exact .inl ⟨hlt, h.leaves j hlt⟩
  · obtain ⟨l, r, w, hn, hl, hr, hne, -⟩ := h.internals j hge hj
    exact .inr ⟨hge, l, r, w, hn, hl, hr, hne⟩

theorem TreeWf.lt_size_of_leaf (h : TreeWf size root node) {j : Nat} (hj : j < 2 * size - 1) {c : Sym} {w : Weight}
    (hn : tableGet blankNode node j = .leaf c w) : j < size := by
  obtain ⟨hlt, -⟩ | ⟨-, l, r, w', hn', -⟩ := h.node_cases hj
  · exact hlt
  · rw [hn] at hn'
    cases hn'

theorem TreeWf.internal_cases (h : TreeWf size root node) {j : Nat} (hj : j < 2 * size - 1) {l r : NodeIx} {w : Weight}
    (hn : tableGet blankNode node j = .internal l r w) : size ≤ j ∧ l.val < j ∧ r.val < j ∧ l ≠ r := by
  obtain ⟨-, c, w', hn'⟩ | ⟨hge, l', r', w', hn', hl, hr, hne⟩ := h.node_cases hj
  · rw [hn] at hn'
    cases hn'
  · rw [hn] at hn'
    cases hn'
    exact ⟨hge, hl, hr, hne⟩

theorem TreeWf.root_lt (h : TreeWf size root node) (hsize : 1 ≤ size) : root.val < 2 * size - 1 := by
  have := h.root_eq
  omega

/-- No two leaves have the same symbol. -/
theorem TreeWf.leaf_injective (h : TreeWf size root node) {i j : Nat} {c : Sym} {v w : Weight} (hi : i < size)
    (hj : j < size) (hni : tableGet blankNode node i = .leaf c v) (hnj : tableGet blankNode node j = .leaf c w) :
    i = j := by
  obtain hlt | heq | hgt := lt_trichotomy i j
  · exact absurd (h.ascending i j c c v w hlt hj hni hnj) (lt_irrefl _)
  · exact heq
  · exact absurd (h.ascending j i c c w v hgt hi hnj hni) (lt_irrefl _)

/-- A bit string leads down: never out of the tree, and never above where it starts. -/
theorem TreeWf.pathFrom_le (h : TreeWf size root node) {p : List Bool} {i j : NodeIx} (hi : i.val < 2 * size - 1)
    (hp : pathFrom node i p = some j) : j.val ≤ i.val := by
  induction p generalizing i with
  | nil => exact (congrArg Fin.val (Option.some.inj hp)).ge
  | cons b p ih =>
    cases hn : tableGet blankNode node i.val with
    | leaf c w =>
      rw [pathFrom_cons_of_leaf hn] at hp
      cases hp
    | internal l r w =>
      obtain ⟨-, hl, hr, -⟩ := h.internal_cases hi hn
      have hchild := child_lt hl hr b
      rw [pathFrom_cons_of_internal hn] at hp
      exact (ih (hchild.trans hi) hp).trans hchild.le

theorem TreeWf.lt_of_pathFrom_root (h : TreeWf size root node) (hsize : 1 ≤ size) {p : List Bool} {i : NodeIx}
    (hp : pathFrom node root p = some i) : i.val < 2 * size - 1 :=
  (h.pathFrom_le (h.root_lt hsize) hp).trans_lt (h.root_lt hsize)

theorem TreeWf.lt_size_of_pathFrom_root (h : TreeWf size root node) (hsize : 1 ≤ size) {p : List Bool} {i : NodeIx}
    {c : Sym} {w : Weight} (hp : pathFrom node root p = some i) (hn : tableGet blankNode node i.val = .leaf c w) :
    i.val < size :=
  h.lt_size_of_leaf (h.lt_of_pathFrom_root hsize hp) hn

/-- The last step of a bit string from the root, inside the tree. -/
theorem TreeWf.cases_of_pathFrom_concat (h : TreeWf size root node) (hsize : 1 ≤ size) {p : List Bool} {b : Bool}
    {i : NodeIx} (hp : pathFrom node root (p ++ [b]) = some i) :
    ∃ k : NodeIx, pathFrom node root p = some k ∧ i.val < k.val ∧ size ≤ k.val ∧ k.val < 2 * size - 1 ∧
      ∃ l r w, tableGet blankNode node k.val = .internal l r w ∧ (if b then r else l) = i := by
  obtain ⟨k, hk, l, r, w, hn, hchild⟩ := pathFrom_concat_eq_some_iff.mp hp
  have hlt := h.lt_of_pathFrom_root hsize hk
  obtain ⟨hge, hl, hr, -⟩ := h.internal_cases hlt hn
  exact ⟨k, hk, hchild ▸ child_lt hl hr b, hge, hlt, l, r, w, hn, hchild⟩

theorem TreeWf.eq_nil_of_pathFrom_root (h : TreeWf size root node) (hsize : 1 ≤ size) {p : List Bool}
    (hp : pathFrom node root p = some root) : p = [] := by
  obtain rfl | ⟨q, b, rfl⟩ := p.eq_nil_or_concat'
  · rfl
  · obtain ⟨k, hk, hlt, -⟩ := h.cases_of_pathFrom_concat hsize hp
    exact absurd (h.pathFrom_le (h.root_lt hsize) hk) hlt.not_ge

/-- Each node of the tree is led to by exactly one bit string from the root: that of its one parent, and then the bit
that chooses it there. -/
theorem TreeWf.existsUnique_pathFrom_root (h : TreeWf size root node) (hsize : 1 ≤ size) (i : NodeIx)
    (hi : i.val < 2 * size - 1) : ∃! p, pathFrom node root p = some i := by
  induction i using WellFoundedGT.induction with
  | _ i ih => ?_
  obtain rfl | hroot := eq_or_ne i root
  · exact ⟨[], rfl, fun p hp => h.eq_nil_of_pathFrom_root hsize hp⟩
  have hbelow : i.val < 2 * size - 2 := by
    have := h.root_eq
    have := Fin.val_ne_of_ne hroot
    omega
  obtain ⟨k, ⟨hge, hlt, l, r, w, hn, hchild⟩, honly⟩ := h.one_parent i hbelow
  obtain ⟨k, rfl⟩ : ∃ k' : NodeIx, k'.val = k := ⟨⟨k, by have := h.size_le; omega⟩, rfl⟩
  obtain ⟨-, hl, hr, hne⟩ := h.internal_cases hlt hn
  obtain ⟨b, rfl⟩ := exists_child_eq_iff.mpr hchild
  obtain ⟨p, hp, hponly⟩ := ih k (child_lt hl hr b) hlt
  refine ⟨p ++ [b], pathFrom_concat_eq_some_iff.mpr ⟨k, hp, l, r, w, hn, rfl⟩, fun q hq => ?_⟩
  obtain rfl | ⟨q, b', rfl⟩ := q.eq_nil_or_concat'
  · exact absurd (Option.some.inj hq).symm hroot
  · obtain ⟨k', hq, -, hge', hlt', l', r', w', hn', hchild'⟩ := h.cases_of_pathFrom_concat hsize hq
    obtain rfl : k' = k := Fin.ext (honly k' ⟨hge', hlt', l', r', w', hn', exists_child_eq_iff.mp ⟨b', hchild'⟩⟩)
    rw [hn] at hn'
    cases hn'
    rw [hponly q hq, child_injective hne hchild']

/-- A symbol stands on one leaf only, so at most one bit string leads to it from the root. -/
theorem TreeWf.leadsToLeaf_unique (h : TreeWf size root node) (hsize : 1 ≤ size) {p q : List Bool} {c : Sym}
    (hp : LeadsToLeaf node root p c) (hq : LeadsToLeaf node root q c) : p = q := by
  obtain ⟨i, v, hi, hni⟩ := hp
  obtain ⟨j, w, hj, hnj⟩ := hq
  obtain rfl : i = j := Fin.ext (h.leaf_injective (h.lt_size_of_pathFrom_root hsize hi hni)
    (h.lt_size_of_pathFrom_root hsize hj hnj) hni hnj)
  exact (h.existsUnique_pathFrom_root hsize i (h.lt_of_pathFrom_root hsize hi)).unique hi hj

theorem TreeWf.ne_nil_of_leadsToLeaf (h : TreeWf size root node) (hsize : 2 ≤ size) {p : List Bool} {c : Sym}
    (hp : LeadsToLeaf node root p c) : p ≠ [] := by
  rintro rfl
  obtain ⟨i, w, hi, hn⟩ := hp
  have hlt := h.lt_size_of_pathFrom_root (by omega) hi hn
  have hroot := h.root_eq
  rw [Option.some.inj hi] at hroot
  omega

end

end Sys2Proof.Safety
end

section
/-! PROOFS. GENC (R140 to R143): codewords as bit strings, what the walk writes at each symbol, when it ends, and the code
table of each form of the tree. The obligations O38, O39 and O40. -/

namespace Sys2Proof.Machine

open Sys2Proof.Safety

/-! A codeword grows at its least significant end, one bit for each step of the walk (R11, R141). -/

theorem two_mul_eq_shiftConcat (a : CodeBits) : 2 * a = a.shiftConcat false := by
  apply BitVec.eq_of_toNat_eq
  simp [BitVec.toNat_shiftConcat, Nat.shiftLeft_eq, Nat.mul_comm]

theorem two_mul_add_one_eq_shiftConcat (a : CodeBits) : 2 * a + 1 = a.shiftConcat true := by
  apply BitVec.eq_of_toNat_eq
  simp [BitVec.toNat_shiftConcat, Nat.shiftLeft_eq, Nat.mul_comm]

/-- The codeword `a` with the bits of `p` appended, first bit first. -/
def appendBits (a : CodeBits) (p : List Bool) : CodeBits := p.foldl BitVec.shiftConcat a

@[simp] theorem appendBits_nil (a : CodeBits) : appendBits a [] = a := rfl

@[simp] theorem appendBits_cons (a : CodeBits) (b : Bool) (p : List Bool) :
    appendBits a (b :: p) = appendBits (a.shiftConcat b) p := rfl

theorem appendBits_toNat_lt {a : CodeBits} {l : Nat} {p : List Bool} (ha : a.toNat < 2 ^ l) (hp : l + p.length ≤ 255) :
    (appendBits a p).toNat < 2 ^ (l + p.length) := by
  induction p generalizing a l with
  | nil => exact ha
  | cons b p ih =>
    rw [List.length_cons, Nat.add_comm p.length, ← Nat.add_assoc] at hp ⊢
    exact ih (BitVec.toNat_shiftConcat_lt_of_lt (by omega) ha) hp

theorem codeBit_shiftConcat_zero (a : CodeBits) (b : Bool) : codeBit (a.shiftConcat b) 0 = b := by
  simp only [codeBit, BitVec.getLsbD_shiftConcat, if_pos, Nat.zero_lt_succ, decide_true, Bool.true_and]

theorem codeBit_shiftConcat_succ (a : CodeBits) (b : Bool) {j : Nat} (h : j + 1 < 255) :
    codeBit (a.shiftConcat b) (j + 1) = codeBit a j := by
  simp only [codeBit, BitVec.getLsbD_shiftConcat, h, decide_true, Bool.true_and, Nat.add_one_ne_zero, if_false,
    Nat.add_sub_cancel]

theorem codewordBits_shiftConcat (a : CodeBits) (b : Bool) {l : Nat} (h : l < 255) :
    codewordBits (l + 1) (a.shiftConcat b) = codewordBits l a ++ [b] := by
  have hold : ∀ j ∈ (List.range l).reverse, codeBit (a.shiftConcat b) (j + 1) = codeBit a j := by
    intro j hj
    have hj : j < l := List.mem_range.mp (List.mem_reverse.mp hj)
    exact codeBit_shiftConcat_succ a b (by omega)
  calc codewordBits (l + 1) (a.shiftConcat b)
    _ = (List.range l).reverse.map (fun j => codeBit (a.shiftConcat b) (j + 1)) ++ [codeBit (a.shiftConcat b) 0] := by
      simp [codewordBits, List.range_succ_eq_map, Function.comp_def]
    _ = codewordBits l a ++ [b] := by rw [List.map_congr_left hold, codeBit_shiftConcat_zero]; rfl

theorem codewordBits_appendBits {a : CodeBits} {l : Nat} {p : List Bool} (hp : l + p.length ≤ 255) :
    codewordBits (l + p.length) (appendBits a p) = codewordBits l a ++ p := by
  induction p generalizing a l with
  | nil => exact (List.append_nil _).symm
  | cons b p ih =>
    rw [List.length_cons, Nat.add_comm p.length, ← Nat.add_assoc] at hp ⊢
    rw [appendBits_cons, ih hp, codewordBits_shiftConcat a b (by omega), List.append_assoc, List.singleton_append]

/-! The codeword of a whole path. -/

theorem appendBits_zero_toNat_lt {p : List Bool} (hp : p.length ≤ 255) : (appendBits 0 p).toNat < 2 ^ p.length := by
  rw [← Nat.zero_add p.length] at hp ⊢
  exact appendBits_toNat_lt Nat.one_pos hp

theorem codewordBits_appendBits_zero {p : List Bool} (hp : p.length ≤ 255) :
    codewordBits p.length (appendBits 0 p) = p := by
  rw [← Nat.zero_add p.length] at hp ⊢
  exact codewordBits_appendBits hp

/-! The entry of one symbol. -/

/-- LEN and CODE of the symbol `c`. -/
def CodeTab.entry (t : CodeTab) (c : Sym) : CodeLen × CodeBits := (tableGet 0 t.len c.toNat, tableGet 0 t.code c.toNat)

theorem CodeTab.entry_put (t : CodeTab) (sym c : Sym) (l : CodeLen) (code : CodeBits) :
    (t.put sym l code).entry c = if sym = c then (l, code) else t.entry c := by
  simp only [CodeTab.entry, CodeTab.len_put, CodeTab.code_put]
  split <;> rfl

/-- Both tables are in canonical form (log 14). -/
def CodeTab.Wf (t : CodeTab) : Prop := tableWf 0 256 t.len ∧ tableWf 0 256 t.code

theorem CodeTab.wf_empty : CodeTab.Wf { len := [], code := [] } := ⟨tableWf_nil 256, tableWf_nil 256⟩

theorem CodeTab.Wf.put {t : CodeTab} (h : t.Wf) (sym : Sym) (l : CodeLen) (code : CodeBits) : (t.put sym l code).Wf :=
  t.wf_put sym l code h.1 h.2

/-! The walk (R141). -/

section
variable {node : Table Node} {i left right : NodeIx} {sym : Sym} {w : Weight}

theorem walk_of_leaf (hn : tableGet blankNode node i.val = .leaf sym w) (d l : Nat) (a : CodeBits) (t : CodeTab) :
    walk node (d + 1) i l a t = some (t.put sym (BitVec.ofNat 8 l) a) := by
  simp only [walk, hn]

theorem walk_of_internal (hn : tableGet blankNode node i.val = .internal left right w) (d l : Nat) (a : CodeBits)
    (t : CodeTab) : walk node (d + 1) i l a t = (walk node d left (l + 1) (a.shiftConcat false) t).bind
      (walk node d right (l + 1) (a.shiftConcat true)) := by
  simp only [walk, hn]
  rw [two_mul_add_one_eq_shiftConcat, two_mul_eq_shiftConcat]
  cases walk node d left (l + 1) (a.shiftConcat false) t <;> rfl

theorem walk_wf {d l : Nat} {a : CodeBits} {t t' : CodeTab} (h : t.Wf) (hw : walk node d i l a t = some t') : t'.Wf := by
  induction d generalizing i l a t t' with
  | zero => cases hw
  | succ d ih =>
    cases hn : tableGet blankNode node i.val with
    | leaf sym w =>
      rw [walk_of_leaf hn] at hw
      exact Option.some.inj hw ▸ h.put sym _ a
    | internal left right w =>
      rw [walk_of_internal hn, Option.bind_eq_some_iff] at hw
      obtain ⟨t₁, hleft, hright⟩ := hw
      exact ih (ih h hleft) hright

/-- What a walk from `i` leaves at the symbol `c`: the path of a leaf of `c` below `i`, the last such leaf it meets, and
where there is none, what was there. -/
theorem walk_entry_cases {d l : Nat} {a : CodeBits} {t t' : CodeTab} (hw : walk node d i l a t = some t') (c : Sym) :
    (∃ p, LeadsToLeaf node i p c ∧ p.length < d ∧ t'.entry c = (BitVec.ofNat 8 (l + p.length), appendBits a p)) ∨
    ((∀ p, ¬ LeadsToLeaf node i p c) ∧ t'.entry c = t.entry c) := by
  induction d generalizing i l a t t' with
  | zero => cases hw
  | succ d ih =>
    cases hn : tableGet blankNode node i.val with
    | leaf sym w =>
      rw [walk_of_leaf hn] at hw
      obtain rfl := Option.some.inj hw
      rw [t.entry_put]
      by_cases hc : sym = c
      · exact .inl ⟨[], (leadsToLeaf_iff_of_leaf hn).mpr ⟨rfl, hc⟩, d.succ_pos, if_pos hc⟩
      · exact .inr ⟨fun p hp => hc ((leadsToLeaf_iff_of_leaf hn).mp hp).2, if_neg hc⟩
    | internal left right w =>
      have hchild (b : Bool) (p : List Bool) (hp : p.length < d) :
          (b :: p).length < d + 1 ∧ l + 1 + p.length = l + (b :: p).length := by
        rw [List.length_cons]
        omega
      rw [walk_of_internal hn, Option.bind_eq_some_iff] at hw
      obtain ⟨t₁, hleft, hright⟩ := hw
      obtain ⟨p, hp, hlen, hentry⟩ | ⟨hnoright, hentry⟩ := ih hright
      · obtain ⟨hlt, heq⟩ := hchild true p hlen
        exact .inl ⟨true :: p, (leadsToLeaf_cons_iff hn).mpr hp, hlt, heq ▸ hentry⟩
      obtain ⟨p, hp, hlen, hentry'⟩ | ⟨hnoleft, hentry'⟩ := ih hleft
      · obtain ⟨hlt, heq⟩ := hchild false p hlen
        exact .inl ⟨false :: p, (leadsToLeaf_cons_iff hn).mpr hp, hlt, heq ▸ hentry.trans hentry'⟩
      refine .inr ⟨fun p hp => ?_, hentry.trans hentry'⟩
      match p with
      | [] => exact not_leadsToLeaf_nil_of_internal hn hp
      | true :: p => exact hnoright p ((leadsToLeaf_cons_iff hn).mp hp)
      | false :: p => exact hnoleft p ((leadsToLeaf_cons_iff hn).mp hp)

/-- The walk ends: below the internal node `i` there are at most the `i + 1 - size` internal nodes up to it. -/
theorem exists_walk_eq_some {size : Nat} {root : NodeIx} (h : TreeWf size root node) {d : Nat} (hi : i.val < 2 * size - 1)
    (hd : i.val + 1 - size < d) (l : Nat) (a : CodeBits) (t : CodeTab) : ∃ t', walk node d i l a t = some t' := by
  induction d generalizing i l a t with
  | zero => exact absurd hd (Nat.not_lt_zero _)
  | succ d ih =>
    obtain ⟨-, sym, w, hn⟩ | ⟨hge, left, right, w, hn, hl, hr, -⟩ := h.node_cases hi
    · exact ⟨_, walk_of_leaf hn d l a t⟩
    · obtain ⟨t₁, hleft⟩ := ih (hl.trans hi) (by omega) (l + 1) (a.shiftConcat false) t
      obtain ⟨t₂, hright⟩ := ih (hr.trans hi) (by omega) (l + 1) (a.shiftConcat true) t₁
      exact ⟨t₂, by rw [walk_of_internal hn, hleft]; exact hright⟩

end

/-! The code table of each form of the tree (R141, R142). -/

section
variable {size : Nat} {root : NodeIx} {node : Table Node} {c : Sym} {tab : CodeTab}

theorem genTable_zero (root : NodeIx) (node : Table Node) : genTable 0 root node = .ok { len := [], code := [] } := rfl

theorem genTable_one_of_leaf {w : Weight} (hn : tableGet blankNode node root.val = .leaf c w) :
    genTable 1 root node = .ok (CodeTab.put c 1 1 { len := [], code := [] }) := by
  simp only [genTable, hn]

theorem genTable_eq_ok_iff_of_two_le (hsize : 2 ≤ size) :
    genTable size root node = .ok tab ↔ walk node 256 root 0 0 { len := [], code := [] } = some tab := by
  obtain ⟨n, rfl⟩ := Nat.exists_eq_add_of_le' hsize
  simp only [genTable]
  cases walk node 256 root 0 0 { len := [], code := [] } <;> simp

/-- Every tree BUILD leaves has a code table, and it is in canonical form. -/
theorem exists_genTable_eq_ok (h : TreeWf size root node) : ∃ tab, genTable size root node = .ok tab ∧ tab.Wf := by
  match size, h with
  | 0, _ => exact ⟨_, genTable_zero root node, CodeTab.wf_empty⟩
  | 1, h =>
    obtain ⟨c, w, hn⟩ := h.leaves 0 Nat.one_pos
    rw [← show root.val = 0 from h.root_eq] at hn
    exact ⟨_, genTable_one_of_leaf hn, CodeTab.wf_empty.put c 1 1⟩
  | n + 2, h =>
    have hdepth : root.val + 1 - (n + 2) < 256 := by
      have := h.root_eq
      have := h.size_le
      omega
    obtain ⟨tab, htab⟩ := exists_walk_eq_some h (h.root_lt (by omega)) hdepth 0 0 { len := [], code := [] }
    exact ⟨tab, (genTable_eq_ok_iff_of_two_le (by omega)).mpr htab, walk_wf CodeTab.wf_empty htab⟩

/-- R141: the codeword of a symbol is the path to its leaf. -/
theorem genTable_entry_of_leadsToLeaf (h : TreeWf size root node) (hsize : 2 ≤ size)
    (htab : genTable size root node = .ok tab) {p : List Bool} (hp : LeadsToLeaf node root p c) :
    p.length ≤ 255 ∧ tab.entry c = (BitVec.ofNat 8 p.length, appendBits 0 p) := by
  obtain ⟨q, hq, hlen, hentry⟩ | ⟨hnone, -⟩ := walk_entry_cases ((genTable_eq_ok_iff_of_two_le hsize).mp htab) c
  · obtain rfl := h.leadsToLeaf_unique (by omega) hq hp
    exact ⟨Nat.le_of_lt_succ hlen, by rw [hentry, Nat.zero_add]⟩
  · exact absurd hp (hnone p)

theorem genTable_entry_of_no_leaf (h : TreeWf size root node) (hsize : 2 ≤ size)
    (htab : genTable size root node = .ok tab)
    (hc : ∀ i : NodeIx, i.val < size → ∀ w, tableGet blankNode node i.val ≠ .leaf c w) : tab.entry c = (0, 0) := by
  obtain ⟨p, ⟨i, w, hp, hn⟩, -⟩ | ⟨-, hentry⟩ := walk_entry_cases ((genTable_eq_ok_iff_of_two_le hsize).mp htab) c
  · exact absurd hn (hc i (h.lt_size_of_pathFrom_root (by omega) hp hn) w)
  · exact hentry

end

/-! The command. -/

/-- The state GENC leaves, with the code table `tab` (R140, R143). -/
def State.completeGenc (tab : CodeTab) (s : State) : State :=
  { s with len := tab.len, code := tab.code, codesValid := true }.complete 0

theorem State.completeGenc_frame (tab : CodeTab) (s : State) :
    s.completeGenc tab = { s with
      len := (s.completeGenc tab).len, code := (s.completeGenc tab).code, codesValid := true, errcode := 0
      seq := .idle } := rfl

theorem State.completeGenc_codes (tab : CodeTab) (s : State) (c : Sym) :
    ((s.completeGenc tab).lenAt c, (s.completeGenc tab).codeAt c) = tab.entry c := rfl

theorem exec_genc_eq_next_iff {s t : State} : exec .genc s = .next t ↔
    ∃ tab, genTable s.treeSize.val s.root s.node = .ok tab ∧ t = s.completeGenc tab :=
  execGenc_eq_next_iff s t

theorem exec_genc_of_genTable {s : State} {size : Nat} {tab : CodeTab} (hsize : s.treeSize.val = size)
    (h : genTable size s.root s.node = .ok tab) : exec .genc s = .next (s.completeGenc tab) :=
  exec_genc_eq_next_iff.mpr ⟨tab, hsize ▸ h, rfl⟩

/-- Settles O40: the walk writes each leaf's path at its symbol, and no second path or second leaf overwrites it. -/
theorem gencRecordsPaths : Obligations.GencRecordsPaths := by
  intro s t htree hsize hexec
  obtain ⟨tab, htab, rfl⟩ := exec_genc_eq_next_iff.mp hexec
  refine ⟨fun p j c w hpath hn => ?path, fun i hi => ?reached, fun c hc => ?absent⟩
  case path =>
    have hp : LeadsToLeaf s.node s.root p c := ⟨j, w, hpath, hn⟩
    obtain ⟨hle, hentry⟩ := genTable_entry_of_leadsToLeaf htree hsize htab hp
    obtain ⟨hlen, hcode⟩ := Prod.mk.inj ((s.completeGenc_codes tab c).trans hentry)
    have hlen : ((s.completeGenc tab).lenAt c).toNat = p.length := by
      rw [hlen, BitVec.toNat_ofNat]
      exact Nat.mod_eq_of_lt (Nat.lt_succ_of_le hle)
    refine ⟨hlen, ?_, List.length_pos_iff.mpr (htree.ne_nil_of_leadsToLeaf hsize hp), ?_⟩
    · rw [symBits, hlen, hcode, codewordBits_appendBits_zero hle]
    · rw [hcode]
      exact appendBits_zero_toNat_lt hle
  case reached => exact (htree.existsUnique_pathFrom_root (by omega) i (by omega)).exists
  case absent =>
    exact Prod.mk.inj ((s.completeGenc_codes tab c).trans (genTable_entry_of_no_leaf htree hsize htab hc))

/-- Settles O38: the code table of each form of the tree exists, and `complete(0)` follows it. -/
theorem gencCompletes : Obligations.GencCompletes := by
  refine ⟨decode_eq_some_iff_of_encode rfl, fun s htree => ?_⟩
  obtain ⟨tab, htab, hlen, hcode⟩ := exists_genTable_eq_ok htree
  exact ⟨s.completeGenc tab, exec_genc_of_genTable rfl htab, s.completeGenc_frame tab, hlen, hcode⟩

/-- Settles O39: the empty table, and the one entry written into it. -/
theorem gencOfAbsentAndSingletonTrees : Obligations.GencOfAbsentAndSingletonTrees := by
  refine fun s => ⟨fun hsize => ?absent, fun c w hsize hn => ?singleton⟩
  case absent =>
    exact ⟨_, exec_genc_of_genTable hsize (genTable_zero s.root s.node), fun _ => ⟨rfl, rfl⟩, s.completeGenc_frame _⟩
  case singleton =>
    have hentry (b : Sym) := CodeTab.entry_put { len := [], code := [] } c b 1 1
    obtain ⟨hlen, hcode⟩ := Prod.mk.inj ((hentry c).trans (if_pos rfl))
    exact ⟨_, exec_genc_of_genTable hsize (genTable_one_of_leaf hn), hlen, hcode,
      fun b hb => Prod.mk.inj ((hentry b).trans (if_neg hb.symm)), s.completeGenc_frame _⟩

end Sys2Proof.Machine
end

section
/-! PROOFS. ENC (R160 to R164): what the core's turn does at each sequencer state of a run, what the run may write, and
the run over a stream of symbols with codewords. The obligations O43, O44, O45 and O47. -/

namespace Sys2Proof.Machine

open Sys2Proof.Safety

/-! Several turns of the core. -/

theorem coreRun_succ_of_next {s t : State} (h : coreStep s = .next t) (k : Nat) : coreRun (k + 1) s = coreRun k t := by
  simp only [coreRun, h]

theorem coreRun_add_of_next {k : Nat} {s t : State} (h : coreRun k s = .next t) (m : Nat) :
    coreRun (k + m) s = coreRun m t := by
  induction k generalizing s with
  | zero =>
    cases h
    rw [Nat.zero_add]
  | succ k ih =>
    rw [Nat.succ_add]
    cases hs : coreStep s with
    | next u =>
      rw [coreRun_succ_of_next hs] at h ⊢
      exact ih h
    | fault e => simp [coreRun, hs] at h
    | refused r => simp [coreRun, hs] at h

/-! The fetch (R161, R162). -/

section
variable {s : State} {c : Sym} {q : List SymToken}

theorem coreStep_encFetch (hseq : s.seq = .encFetch) : coreStep s = .next (encFetchStep s) := by
  simp only [coreStep, hseq]

theorem State.takeSymIn_of_cons {k : SymToken} (hq : s.qSymIn = k :: q) :
    s.takeSymIn = some (k, { s with qSymIn := q }) :=
  (s.takeSymIn_eq_some_iff _ k).mpr ⟨q, hq, rfl⟩

theorem coreStep_encFetch_of_nil (hseq : s.seq = .encFetch) (hq : s.qSymIn = []) : coreStep s = .next s := by
  simp only [coreStep_encFetch hseq, encFetchStep, s.takeSymIn_eq_none_iff.mpr hq]

theorem coreStep_encFetch_of_fin (hseq : s.seq = .encFetch) (hq : s.qSymIn = .fin :: q) :
    coreStep s = .next { s with qSymIn := q, seq := .encClose 0 } := by
  simp only [coreStep_encFetch hseq, encFetchStep, State.takeSymIn_of_cons hq, State.setSeq]

theorem coreStep_encFetch_of_lenAt_eq_zero (hseq : s.seq = .encFetch) (hq : s.qSymIn = .sym c :: q)
    (hlen : s.lenAt c = 0) :
    coreStep s = .next { s with qSymIn := q, errinfo := c.setWidth 32, seq := .encClose 3 } := by
  simp only [coreStep_encFetch hseq, encFetchStep, State.takeSymIn_of_cons hq]
  exact congrArg _ (if_pos hlen)

theorem coreStep_encFetch_of_lenAt_ne_zero (hseq : s.seq = .encFetch) (hq : s.qSymIn = .sym c :: q)
    (hlen : s.lenAt c ≠ 0) :
    coreStep s = .next { s with qSymIn := q, seq := .encBit c ((s.lenAt c).toNat - 1) } := by
  simp only [coreStep_encFetch hseq, encFetchStep, State.takeSymIn_of_cons hq]
  exact congrArg _ (if_neg hlen)

end

/-! The emit and the close (R163, R164). -/

section
variable {s : State} {c : Sym} {j : Nat} {e : ErrCode}

theorem State.bitOutReady_iff (s : State) : s.bitOutReady = true ↔ BitOutRoom s 1 :=
  hasRoom_eq_true_iff s.outCap s.rBitOut.length

theorem State.not_bitOutReady (h : ¬ BitOutRoom s 1) : ¬ s.bitOutReady = true := mt s.bitOutReady_iff.mp h

theorem bitOutRoom_mono {m n : Nat} (h : BitOutRoom s n) (hle : m ≤ n) : BitOutRoom s m :=
  fun c hc => (Nat.add_le_add_left hle _).trans (h c hc)

/-- One token put leaves room for one fewer. -/
theorem bitOutRoom_after_put {s t : State} {k : OutBitToken} {n : Nat} (h : BitOutRoom s (n + 1))
    (hcap : t.outCap = s.outCap) (hput : t.rBitOut = s.rBitOut ++ [k]) : BitOutRoom t n := by
  intro c hc
  rw [hput, List.length_append, List.length_singleton, Nat.add_right_comm]
  exact h c (hcap ▸ hc)

theorem coreStep_encBit (hseq : s.seq = .encBit c j) : coreStep s = .next (encBitStep c j s) := by
  simp only [coreStep, hseq]

theorem coreStep_encBit_of_not_room (hseq : s.seq = .encBit c j) (h : ¬ BitOutRoom s 1) : coreStep s = .next s :=
  (coreStep_encBit hseq).trans (congrArg _ (if_neg (State.not_bitOutReady h)))

theorem coreStep_encBit_zero (hseq : s.seq = .encBit c 0) (h : BitOutRoom s 1) : coreStep s =
    .next { s with rBitOut := s.rBitOut ++ [.bit (codeBit (s.codeAt c) 0)], encNbit := s.encNbit + 1,
                   encNsym := s.encNsym + 1, seq := .encFetch } :=
  (coreStep_encBit hseq).trans (congrArg _ (if_pos (s.bitOutReady_iff.mpr h)))

theorem coreStep_encBit_succ (hseq : s.seq = .encBit c (j + 1)) (h : BitOutRoom s 1) : coreStep s =
    .next { s with rBitOut := s.rBitOut ++ [.bit (codeBit (s.codeAt c) (j + 1))], encNbit := s.encNbit + 1,
                   seq := .encBit c j } :=
  (coreStep_encBit hseq).trans (congrArg _ (if_pos (s.bitOutReady_iff.mpr h)))

theorem coreStep_encClose (hseq : s.seq = .encClose e) : coreStep s = .next (encCloseStep e s) := by
  simp only [coreStep, hseq]

theorem coreStep_encClose_of_not_room (hseq : s.seq = .encClose e) (h : ¬ BitOutRoom s 1) : coreStep s = .next s :=
  (coreStep_encClose hseq).trans (congrArg _ (if_neg (State.not_bitOutReady h)))

theorem coreStep_encClose_of_room (hseq : s.seq = .encClose e) (h : BitOutRoom s 1) :
    coreStep s = .next { s with rBitOut := s.rBitOut ++ [.close], errcode := e, seq := .idle } :=
  (coreStep_encClose hseq).trans (congrArg _ (if_pos (s.bitOutReady_iff.mpr h)))

end

/-! What a turn of the run may write (R160). -/

/-- Nothing but SYM_IN, BIT_OUT, the encoder's counters, ERRINFO, ERRCODE and the sequencer differs. -/
def EncFrame (s t : State) : Prop :=
  t = { s with
    qSymIn := t.qSymIn, rBitOut := t.rBitOut, encNsym := t.encNsym, encNbit := t.encNbit
    errinfo := t.errinfo, errcode := t.errcode, seq := t.seq }

theorem EncFrame.unchanged {s t : State} (h : EncFrame s t) :
    SameFreq s t ∧ SameTree s t ∧ SameCodes s t ∧ SameRes s t ∧ SameDecoder s t ∧ SameDecPorts s t ∧
    SameCommand s t ∧ SameHost s t ∧ t.draws = s.draws := by
  rw [h]
  exact ⟨rfl, ⟨rfl, rfl, rfl⟩, ⟨rfl, rfl, rfl⟩, ⟨rfl, rfl, rfl, rfl⟩, ⟨rfl, rfl, rfl, rfl⟩, ⟨rfl, rfl⟩,
    ⟨rfl, rfl, rfl, rfl, rfl⟩, ⟨rfl, rfl, rfl, rfl, rfl⟩, rfl⟩

section
variable {s : State} {c : Sym} {j : Nat} {e : ErrCode}

theorem encFetchStep_keeps_run (hseq : s.seq = .encFetch) :
    EncFrame s (encFetchStep s) ∧ EncRunning (encFetchStep s) := by
  obtain ⟨-, h⟩ | ⟨q, -, h⟩ | ⟨c, q, -, -, h⟩ | ⟨c, q, -, -, h⟩ := encFetchStep_cases s <;> rw [h]
  · exact ⟨rfl, .inl hseq⟩
  · exact ⟨rfl, .inr (.inr ⟨_, rfl⟩)⟩
  · exact ⟨rfl, .inr (.inr ⟨_, rfl⟩)⟩
  · exact ⟨rfl, .inr (.inl ⟨_, _, rfl⟩)⟩

theorem encBitStep_keeps_run (hseq : s.seq = .encBit c j) :
    EncFrame s (encBitStep c j s) ∧ EncRunning (encBitStep c j s) := by
  obtain ⟨-, h⟩ | ⟨-, -, h⟩ | ⟨-, j', -, h⟩ := encBitStep_cases c j s <;> rw [h]
  · exact ⟨rfl, .inr (.inl ⟨_, _, hseq⟩)⟩
  · exact ⟨rfl, .inl rfl⟩
  · exact ⟨rfl, .inr (.inl ⟨_, _, rfl⟩)⟩

theorem encCloseStep_keeps_or_ends_run (hseq : s.seq = .encClose e) :
    EncFrame s (encCloseStep e s) ∧ (EncRunning (encCloseStep e s) ∨ (encCloseStep e s).seq = .idle) := by
  obtain ⟨-, h⟩ | ⟨-, h⟩ := encCloseStep_cases e s <;> rw [h]
  · exact ⟨rfl, .inl (.inr (.inr ⟨_, hseq⟩))⟩
  · exact ⟨rfl, .inr rfl⟩

end

/-- `s` after the start of ENC (R160). -/
def State.encStarted (s : State) : State := { s with encNsym := 0, encNbit := 0, seq := .encFetch }

theorem coreStep_of_aboutToRun_enc {s : State} (h : AboutToRun .enc s) : coreStep s = .next s.encStarted :=
  coreStep_of_decode_eq_some h.1 h.2

/-- A turn of an ENC run keeps the frame, and the run goes on unless the turn was its close. -/
theorem encRun_turn {s t : State} (hrun : EncRunning s ∨ AboutToRun .enc s) (ht : coreStep s = .next t) :
    EncFrame s t ∧ (EncRunning t ∨ ∃ e, s.seq = .encClose e ∧ t.seq = .idle) := by
  obtain (hseq | ⟨c, j, hseq⟩ | ⟨e, hseq⟩) | hstart := hrun
  · cases (coreStep_encFetch hseq).symm.trans ht
    exact (encFetchStep_keeps_run hseq).imp_right .inl
  · cases (coreStep_encBit hseq).symm.trans ht
    exact (encBitStep_keeps_run hseq).imp_right .inl
  · cases (coreStep_encClose hseq).symm.trans ht
    exact (encCloseStep_keeps_or_ends_run hseq).imp_right (.imp_right fun hidle => ⟨e, hseq, hidle⟩)
  · cases (coreStep_of_aboutToRun_enc hstart).symm.trans ht
    exact ⟨rfl, .inl (.inl rfl)⟩

/-! Codewords and streams as bit strings. -/

theorem codewordBits_succ (l : Nat) (c : CodeBits) : codewordBits (l + 1) c = codeBit c l :: codewordBits l c := by
  simp [codewordBits, List.range_succ]

theorem streamBits_length (s : State) (syms : List Sym) : (streamBits s syms).length = streamLen s syms := by
  simp [streamBits, streamLen, symBits, codewordBits, List.length_flatMap]

theorem streamBits_append (s : State) (as bs : List Sym) :
    streamBits s (as ++ bs) = streamBits s as ++ streamBits s bs := List.flatMap_append

theorem streamLen_cons (s : State) (c : Sym) (syms : List Sym) :
    streamLen s (c :: syms) = (s.lenAt c).toNat + streamLen s syms := List.sum_cons

theorem streamLen_append (s : State) (as bs : List Sym) :
    streamLen s (as ++ bs) = streamLen s as + streamLen s bs := by
  simp only [streamLen, List.map_append, List.sum_append]

/-! Counters modulo 2^32 (R44). -/

theorem word_add_ofNat_add_ofNat (w : Word) (m n : Nat) :
    w + BitVec.ofNat 32 m + BitVec.ofNat 32 n = w + BitVec.ofNat 32 (m + n) := by
  rw [BitVec.add_assoc, BitVec.ofNat_add]

theorem word_add_one_add_ofNat (w : Word) (n : Nat) : w + 1 + BitVec.ofNat 32 n = w + BitVec.ofNat 32 (n + 1) := by
  rw [Nat.add_comm n 1]
  exact word_add_ofNat_add_ofNat w 1 n

/-! The run over symbols with codewords (R161, R163). -/

/-- `s` after ENC has taken `syms`, with `q` left on SYM_IN, and has put and counted their codewords. -/
def State.encoded (syms : List Sym) (q : List SymToken) (s : State) : State :=
  { s with
    qSymIn := q, rBitOut := s.rBitOut ++ (streamBits s syms).map .bit
    encNsym := s.encNsym + BitVec.ofNat 32 syms.length, encNbit := s.encNbit + BitVec.ofNat 32 (streamLen s syms) }

theorem State.encoded_nil {s : State} {q : List SymToken} (hq : s.qSymIn = q) : s.encoded [] q = s := by
  subst hq
  simp [State.encoded, streamBits, streamLen]

theorem State.encoded_encoded (s : State) (as bs : List Sym) (p q : List SymToken) :
    (s.encoded as p).encoded bs q = s.encoded (as ++ bs) q := by
  have hbits : streamBits (s.encoded as p) bs = streamBits s bs := rfl
  have hlen : streamLen (s.encoded as p) bs = streamLen s bs := rfl
  rw [State.encoded, hbits, hlen]
  simp only [State.encoded, streamBits_append, streamLen_append, List.length_append, List.map_append,
    List.append_assoc, word_add_ofNat_add_ofNat]

theorem State.bitOutRoom_encoded_iff {s : State} {syms : List Sym} {q : List SymToken} {n : Nat} :
    BitOutRoom (s.encoded syms q) n ↔ BitOutRoom s (streamLen s syms + n) := by
  simp [BitOutRoom, State.encoded, streamBits_length, Nat.add_assoc]

/-- R163: the bits j to 0 of a codeword. -/
theorem coreRun_encBit {s : State} {c : Sym} {j : Nat} (hseq : s.seq = .encBit c j) (hroom : BitOutRoom s (j + 1)) :
    coreRun (j + 1) s = .next { s with
      rBitOut := s.rBitOut ++ (codewordBits (j + 1) (s.codeAt c)).map .bit
      encNsym := s.encNsym + 1, encNbit := s.encNbit + BitVec.ofNat 32 (j + 1), seq := .encFetch } := by
  induction j generalizing s with
  | zero => exact coreRun_succ_of_next (coreStep_encBit_zero hseq hroom) 0
  | succ j ih =>
    have hfirst := coreStep_encBit_succ hseq (bitOutRoom_mono hroom (Nat.le_add_left 1 _))
    rw [coreRun_succ_of_next hfirst, ih rfl ?room]
    case room => exact bitOutRoom_after_put hroom rfl rfl
    simp only [codewordBits_succ (j + 1), word_add_one_add_ofNat, List.map_cons, List.append_assoc,
      List.singleton_append, State.codeAt]

/-- One symbol: its fetch and the bits of its codeword. -/
theorem coreRun_encSymbol {s : State} {c : Sym} {q : List SymToken} (hseq : s.seq = .encFetch)
    (hq : s.qSymIn = .sym c :: q) (hlen : s.lenAt c ≠ 0) (hroom : BitOutRoom s (s.lenAt c).toNat) :
    coreRun ((s.lenAt c).toNat + 1) s = .next (s.encoded [c] q) := by
  have hfetch := coreStep_encFetch_of_lenAt_ne_zero hseq hq hlen
  have hpos : (s.lenAt c).toNat - 1 + 1 = (s.lenAt c).toNat :=
    Nat.sub_add_cancel (Nat.pos_of_ne_zero fun hzero => hlen (BitVec.eq_of_toNat_eq hzero))
  have hbits := coreRun_encBit
    (s := { s with qSymIn := q, seq := .encBit c ((s.lenAt c).toNat - 1) }) rfl (hpos ▸ hroom)
  rw [hpos] at hbits
  rw [coreRun_succ_of_next hfetch, hbits, State.encoded, streamBits, streamLen]
  simp [hseq, symBits, State.codeAt]

/-- The symbols of a stream, by induction on it. -/
theorem coreRun_encSymbols {s : State} {syms : List Sym} {q : List SymToken} (hseq : s.seq = .encFetch)
    (hq : s.qSymIn = syms.map .sym ++ q) (hlen : ∀ c ∈ syms, s.lenAt c ≠ 0) (hroom : BitOutRoom s (streamLen s syms)) :
    coreRun (syms.length + streamLen s syms) s = .next (s.encoded syms q) := by
  induction syms generalizing s with
  | nil => exact congrArg _ (State.encoded_nil hq).symm
  | cons c syms ih =>
    obtain ⟨hc, hsyms⟩ := List.forall_mem_cons.mp hlen
    rw [streamLen_cons] at hroom
    have hsym := coreRun_encSymbol hseq hq hc (bitOutRoom_mono hroom (Nat.le_add_right _ _))
    have hrest := ih (s := s.encoded [c] (syms.map .sym ++ q)) hseq rfl hsyms
      (State.bitOutRoom_encoded_iff.mpr hroom)
    calc coreRun ((c :: syms).length + streamLen s (c :: syms)) s
      _ = coreRun ((s.lenAt c).toNat + 1 + (syms.length + streamLen s syms)) s := by
        rw [List.length_cons, streamLen_cons]
        congr 1
        omega
      _ = coreRun (syms.length + streamLen s syms) (s.encoded [c] (syms.map .sym ++ q)) := coreRun_add_of_next hsym _
      _ = .next (s.encoded (c :: syms) q) := hrest.trans (congrArg _ (s.encoded_encoded [c] syms _ q))

/-- The start and the symbols that follow it. -/
theorem coreRun_enc_of_symbols {s : State} {syms : List Sym} {q : List SymToken} (hstart : AboutToRun .enc s)
    (hq : s.qSymIn = syms.map .sym ++ q) (hlen : ∀ c ∈ syms, s.lenAt c ≠ 0) (hroom : BitOutRoom s (streamLen s syms)) :
    coreRun (1 + syms.length + streamLen s syms) s = .next (s.encStarted.encoded syms q) := by
  rw [Nat.add_assoc, Nat.add_comm, coreRun_succ_of_next (coreStep_of_aboutToRun_enc hstart)]
  exact coreRun_encSymbols (s := s.encStarted) rfl hq hlen hroom

/-- The fetch that ends the stream, and the close it goes to (R161, R162, R164). -/
theorem coreRun_encEnd {s t : State} {e : ErrCode} (hfetch : coreStep s = .next t) (hseq : t.seq = .encClose e)
    (hroom : BitOutRoom t 1) :
    coreRun 2 s = .next { t with rBitOut := t.rBitOut ++ [.close], errcode := e, seq := .idle } := by
  rw [coreRun_succ_of_next hfetch]
  exact coreRun_succ_of_next (coreStep_encClose_of_room hseq hroom) 0

end Sys2Proof.Machine

/-! The obligations, in a namespace of their own, in which their names do not meet those of the model's steps. -/

namespace Sys2Proof.EncProofs

open Sys2Proof.Machine Sys2Proof.Safety

/-- Settles O43, by what each turn of the run may write and where it leaves the sequencer. -/
theorem encStartAndFrame : Obligations.EncStartAndFrame := by
  refine ⟨decode_eq_some_iff_of_encode rfl, fun _ => rfl, fun s t hrun ht => ?_⟩
  obtain ⟨hframe, hseq⟩ := encRun_turn hrun ht
  simpa only [and_assoc] using And.intro hframe.unchanged hseq

/-- Settles O44, by what the fetch finds on SYM_IN. -/
theorem encFetchStep : Obligations.EncFetchStep :=
  fun _ hseq => ⟨coreStep_encFetch_of_nil hseq, fun _ => coreStep_encFetch_of_fin hseq,
    fun _ _ => coreStep_encFetch_of_lenAt_eq_zero hseq, fun _ _ => coreStep_encFetch_of_lenAt_ne_zero hseq⟩

/-- Settles O45: with and without room, at the last bit of a codeword, at an earlier one, and at the close. -/
theorem encEmitAndCloseSteps : Obligations.EncEmitAndCloseSteps := by
  refine fun s => ⟨fun c j hseq => ⟨coreStep_encBit_of_not_room hseq, fun hroom => ?emit⟩,
    fun e hseq => ⟨coreStep_encClose_of_not_room hseq, coreStep_encClose_of_room hseq⟩⟩
  cases j with
  | zero => exact coreStep_encBit_zero hseq hroom
  | succ j => exact coreStep_encBit_succ hseq hroom

/-- Settles O47: the start and the symbols with codewords, the fetch of the one without, and the close, for which the
symbols leave room. -/
theorem encMissingCodewordRun : Obligations.EncMissingCodewordRun := by
  intro s syms bad rest hstart hq hlen hbad hroom
  have hsyms := coreRun_enc_of_symbols hstart hq hlen (bitOutRoom_mono hroom (Nat.le_add_right _ 1))
  have hfetch := coreStep_encFetch_of_lenAt_eq_zero (s := s.encStarted.encoded syms (.sym bad :: rest)) rfl rfl hbad
  have hend := coreRun_encEnd hfetch rfl (State.bitOutRoom_encoded_iff (s := s.encStarted) (q := rest).mpr hroom)
  rw [Nat.add_assoc, coreRun_add_of_next hsyms, hend]
  simp only [State.encoded, State.encStarted, zero_add]
  rfl

end Sys2Proof.EncProofs
end

section
/-! PROOFS. DEC (R180 to R186): what the core's turn does at each sequencer state of a run, what the run may write, and
the run on the absent tree. The obligations O48, O49, O50, O51 and O52. -/

namespace Sys2Proof.Machine

open Sys2Proof.Safety

/-! The fetch (R182, R183, R185). -/

section
variable {s : State} {b : Bool} {c : Sym} {q : List BitToken}

theorem State.takeBitIn_of_cons {k : BitToken} (hq : s.qBitIn = k :: q) :
    s.takeBitIn = some (k, { s with qBitIn := q }) :=
  (s.takeBitIn_eq_some_iff _ k).mpr ⟨q, hq, rfl⟩

theorem State.nodeAt_of_bitIn (s : State) (q : List BitToken) (i : NodeIx) :
    State.nodeAt { s with qBitIn := q } i = s.nodeAt i := rfl

theorem coreStep_decFetch (hseq : s.seq = .decFetch) : coreStep s = decFetchStep s := by
  simp only [coreStep, hseq]

theorem coreStep_decFetch_of_nil (hseq : s.seq = .decFetch) (hq : s.qBitIn = []) : coreStep s = .next s := by
  simp only [coreStep_decFetch hseq, decFetchStep, decFetchSingleton, decFetchTree, s.takeBitIn_eq_none_iff.mpr hq,
    ite_self]

/-! The singleton tree. -/

theorem coreStep_decFetch_of_singleton (hseq : s.seq = .decFetch) (hsize : s.treeSize.val = 1) :
    coreStep s = decFetchSingleton s :=
  (coreStep_decFetch hseq).trans (if_pos hsize.le)

theorem decFetchSingleton_of_fin (hq : s.qBitIn = .fin :: q) :
    decFetchSingleton s = .next { s with qBitIn := q, seq := .decClose } := by
  simp only [decFetchSingleton, State.takeBitIn_of_cons hq, State.setSeq]

theorem decFetchSingleton_of_bit {w : Weight} (hq : s.qBitIn = .bit b :: q) (hroot : s.nodeAt s.root = .leaf c w) :
    decFetchSingleton s = .next { s with qBitIn := q, decNbit := s.decNbit + 1, seq := .decEmit c } := by
  simp only [decFetchSingleton, State.takeBitIn_of_cons hq, State.nodeAt_of_bitIn, hroot, State.setSeq]

/-! A tree of two or more symbols. -/

theorem coreStep_decFetch_of_two_le (hseq : s.seq = .decFetch) (hsize : 2 ≤ s.treeSize.val) :
    coreStep s = decFetchTree s :=
  (coreStep_decFetch hseq).trans (if_neg (Nat.not_le.mpr hsize))

theorem decFetchTree_of_fin (hq : s.qBitIn = .fin :: q) : decFetchTree s =
    .next { s with qBitIn := q, decMidpath := decide (s.decPtr ≠ s.root), seq := .decClose } := by
  simp only [decFetchTree, State.takeBitIn_of_cons hq, State.setSeq]

section
variable {l r l' r' : NodeIx} {v w : Weight}

theorem decFetchTree_of_bit_to_leaf (hq : s.qBitIn = .bit b :: q) (hptr : s.nodeAt s.decPtr = .internal l r w)
    (hchild : s.nodeAt (if b then r else l) = .leaf c v) : decFetchTree s =
    .next { s with qBitIn := q, decNbit := s.decNbit + 1, decPtr := s.root, seq := .decEmit c } := by
  simp only [decFetchTree, State.takeBitIn_of_cons hq, State.nodeAt_of_bitIn, hptr, hchild, State.setSeq]

theorem decFetchTree_of_bit_to_internal (hq : s.qBitIn = .bit b :: q) (hptr : s.nodeAt s.decPtr = .internal l r w)
    (hchild : s.nodeAt (if b then r else l) = .internal l' r' v) : decFetchTree s =
    .next { s with qBitIn := q, decNbit := s.decNbit + 1, decPtr := if b then r else l } := by
  simp only [decFetchTree, State.takeBitIn_of_cons hq, State.nodeAt_of_bitIn, hptr, hchild]

end

theorem State.nodeCount_of_pos (hsize : 1 ≤ s.treeSize.val) : s.nodeCount = 2 * s.treeSize.val - 1 :=
  if_neg (Nat.ne_of_gt hsize)

/-- R183: at a fetch the pointer is at an internal node, because the invariant keeps it above the leaves. -/
theorem nodeAt_decPtr_of_inv (h : Inv s) (hseq : s.seq = .decFetch) (hsize : 2 ≤ s.treeSize.val) :
    ∃ l r w, s.nodeAt s.decPtr = .internal l r w := by
  have hwf := h.seq_wf
  simp only [SeqWf, hseq] at hwf
  obtain ⟨-, hpos, -, hptr⟩ := hwf
  obtain ⟨hge, hlt⟩ := hptr hsize
  rw [State.nodeCount_of_pos hpos] at hlt
  obtain ⟨l, r, w, hn, -⟩ := h.tree_wf.internals s.decPtr.val hge hlt
  exact ⟨l, r, w, hn⟩

end

/-! The emit and the close (R184, R186). -/

section
variable {s : State} {c : Sym}

theorem State.symOutReady_iff (s : State) : s.symOutReady = true ↔ SymOutRoom s 1 :=
  hasRoom_eq_true_iff s.outCap s.rSymOut.length

theorem State.not_symOutReady (h : ¬ SymOutRoom s 1) : ¬ s.symOutReady = true := mt s.symOutReady_iff.mp h

theorem coreStep_decEmit (hseq : s.seq = .decEmit c) : coreStep s = .next (decEmitStep c s) := by
  simp only [coreStep, hseq]

theorem coreStep_decEmit_of_not_room (hseq : s.seq = .decEmit c) (h : ¬ SymOutRoom s 1) : coreStep s = .next s :=
  (coreStep_decEmit hseq).trans (congrArg _ (if_neg (State.not_symOutReady h)))

theorem coreStep_decEmit_of_room (hseq : s.seq = .decEmit c) (h : SymOutRoom s 1) : coreStep s =
    .next { s with rSymOut := s.rSymOut ++ [.sym c], decNsym := s.decNsym + 1, seq := .decFetch } :=
  (coreStep_decEmit hseq).trans (congrArg _ (if_pos (s.symOutReady_iff.mpr h)))

theorem coreStep_decClose (hseq : s.seq = .decClose) : coreStep s = .next (decCloseStep s) := by
  simp only [coreStep, hseq]

theorem coreStep_decClose_of_not_room (hseq : s.seq = .decClose) (h : ¬ SymOutRoom s 1) : coreStep s = .next s :=
  (coreStep_decClose hseq).trans (congrArg _ (if_neg (State.not_symOutReady h)))

theorem coreStep_decClose_of_room (hseq : s.seq = .decClose) (h : SymOutRoom s 1) :
    coreStep s = .next { s with rSymOut := s.rSymOut ++ [.fin], errcode := 0, seq := .idle } :=
  (coreStep_decClose hseq).trans (congrArg _ (if_pos (s.symOutReady_iff.mpr h)))

end

/-! What a turn of the run may write (R180). -/

/-- Nothing but BIT_IN, SYM_OUT, the decoder's counters, DEC_MIDPATH, DEC_PTR, ERRCODE and the sequencer differs, and
ERRCODE only by becoming 0. -/
def DecFrame (s t : State) : Prop :=
  t = { s with
    qBitIn := t.qBitIn, rSymOut := t.rSymOut, decNbit := t.decNbit, decNsym := t.decNsym
    decMidpath := t.decMidpath, decPtr := t.decPtr, errcode := t.errcode, seq := t.seq } ∧
  (t.errcode = s.errcode ∨ t.errcode = 0)

theorem DecFrame.unchanged {s t : State} (h : DecFrame s t) :
    SameFreq s t ∧ SameTree s t ∧ SameCodes s t ∧ SameRes s t ∧ SameEncCounters s t ∧ SameEncPorts s t ∧
    SameCommand s t ∧ SameHost s t ∧ t.errinfo = s.errinfo ∧ t.draws = s.draws := by
  rw [h.1]
  exact ⟨rfl, ⟨rfl, rfl, rfl⟩, ⟨rfl, rfl, rfl⟩, ⟨rfl, rfl, rfl, rfl⟩, ⟨rfl, rfl⟩, ⟨rfl, rfl⟩,
    ⟨rfl, rfl, rfl, rfl, rfl⟩, ⟨rfl, rfl, rfl, rfl, rfl⟩, rfl, rfl⟩

section
variable {s t : State}

/-! Of what the fetch can do, a fault leaves no next state, and nothing else writes ERRCODE. -/

theorem decFetchSingleton_frame (h : decFetchSingleton s = .next t) : DecFrame s t := by
  obtain ⟨-, heq⟩ | ⟨q, -, heq⟩ | ⟨b, q, c, w, -, -, heq⟩ | ⟨b, q, l, r, w, -, -, heq⟩ :=
    decFetchSingleton_cases s <;> cases heq.symm.trans h
  all_goals exact ⟨rfl, .inl rfl⟩

theorem decFetchTree_frame (h : decFetchTree s = .next t) : DecFrame s t := by
  obtain ⟨-, heq⟩ | ⟨q, -, heq⟩ | ⟨b, q, c, w, -, -, heq⟩ | ⟨b, q, l, r, w, c, v, -, -, -, heq⟩ |
    ⟨b, q, l, r, w, l', r', v, -, -, -, heq⟩ := decFetchTree_cases s <;>
    cases heq.symm.trans h
  all_goals exact ⟨rfl, .inl rfl⟩

theorem decFetchStep_frame (h : decFetchStep s = .next t) : DecFrame s t := by
  unfold decFetchStep at h
  split at h
  · exact decFetchSingleton_frame h
  · exact decFetchTree_frame h

theorem decEmitStep_frame (c : Sym) (s : State) : DecFrame s (decEmitStep c s) := by
  obtain ⟨-, h⟩ | ⟨-, h⟩ := decEmitStep_cases c s <;> rw [h] <;> exact ⟨rfl, .inl rfl⟩

theorem decCloseStep_frame (s : State) : DecFrame s (decCloseStep s) := by
  obtain ⟨-, h⟩ | ⟨-, h⟩ := decCloseStep_cases s <;> rw [h]
  · exact ⟨rfl, .inl rfl⟩
  · exact ⟨rfl, .inr rfl⟩

end

/-- `s` after the start of DEC (R180, R181). -/
def State.decStarted (s : State) : State :=
  { s with
    decNbit := 0, decNsym := 0, decMidpath := false, decPtr := s.root
    seq := if s.treeSize.val = 0 then .decClose else .decFetch }

theorem State.decStarted_seq_of_absent {s : State} (h : s.treeSize.val = 0) : s.decStarted.seq = .decClose := if_pos h

theorem exec_dec (s : State) : exec .dec s = .next s.decStarted := rfl

theorem coreStep_of_aboutToRun_dec {s : State} (h : AboutToRun .dec s) : coreStep s = .next s.decStarted :=
  (coreStep_of_decode_eq_some h.1 h.2).trans (exec_dec s)

theorem decRun_turn {s t : State} (hrun : DecRunning s ∨ AboutToRun .dec s) (ht : coreStep s = .next t) :
    DecFrame s t := by
  obtain (hseq | ⟨c, hseq⟩ | hseq) | hstart := hrun
  · exact decFetchStep_frame ((coreStep_decFetch hseq).symm.trans ht)
  · cases (coreStep_decEmit hseq).symm.trans ht
    exact decEmitStep_frame c s
  · cases (coreStep_decClose hseq).symm.trans ht
    exact decCloseStep_frame s
  · cases (coreStep_of_aboutToRun_dec hstart).symm.trans ht
    exact ⟨rfl, .inl rfl⟩

/-! The obligations. -/

/-- Settles O48, by what each turn of the run may write. -/
theorem decStartAndFrame : Obligations.DecStartAndFrame := by
  refine ⟨decode_eq_some_iff_of_encode rfl, exec_dec, fun s t hrun ht => ?_⟩
  have hframe := decRun_turn hrun ht
  simpa only [and_assoc] using And.intro hframe.unchanged hframe.2

/-- Settles O49, by what the fetch finds on BIT_IN. -/
theorem decFetchOnSingleton : Obligations.DecFetchOnSingleton := by
  intro s hseq hsize
  refine ⟨coreStep_decFetch_of_nil hseq, fun q hq => ?fin, fun b q c w hq hroot => ?bit⟩
  all_goals rw [coreStep_decFetch_of_singleton hseq hsize]
  case fin => exact decFetchSingleton_of_fin hq
  case bit => exact decFetchSingleton_of_bit hq hroot

/-- Settles O50, by what the fetch finds on BIT_IN and, for a bit, by the kind of the child it chooses. -/
theorem decFetchOnTree : Obligations.DecFetchOnTree := by
  intro s hseq hsize
  refine ⟨fun h => nodeAt_decPtr_of_inv h hseq hsize, coreStep_decFetch_of_nil hseq, fun q hq => ?fin,
    fun b q l r w hq hptr => ⟨fun c v hchild => ?leaf, fun l' r' v hchild => ?internal⟩⟩
  all_goals rw [coreStep_decFetch_of_two_le hseq hsize]
  case fin => exact decFetchTree_of_fin hq
  case leaf => exact decFetchTree_of_bit_to_leaf hq hptr hchild
  case internal => exact decFetchTree_of_bit_to_internal hq hptr hchild

/-- Settles O51, with and without room on SYM_OUT. -/
theorem decEmitAndCloseSteps : Obligations.DecEmitAndCloseSteps :=
  fun _ => ⟨fun _ hseq => ⟨coreStep_decEmit_of_not_room hseq, coreStep_decEmit_of_room hseq⟩,
    fun hseq => ⟨coreStep_decClose_of_not_room hseq, coreStep_decClose_of_room hseq⟩⟩

/-- Settles O52: the start goes straight to the close, and neither looks at BIT_IN. -/
theorem decOnAbsentTree : Obligations.DecOnAbsentTree := by
  intro s hstart hsize hroom
  have hclose := coreStep_decClose_of_room (State.decStarted_seq_of_absent hsize) hroom
  rw [coreRun_succ_of_next (coreStep_of_aboutToRun_dec hstart), coreRun_succ_of_next hclose]
  rfl

end Sys2Proof.Machine
end

section
/-! PROOFS. OVERRUN (R205): what a write to CMD does, that no turn of the core touches the command registers, OVERRUN or
anything of the host's but the ports, and how the host's turn moves OVERRUN. The obligations O10 and O11. -/

namespace Sys2Proof.Machine

open Sys2Proof.Safety

/-! A write to CMD (R203, R205). -/

theorem State.memWrite_cmd_of_not_idle {s : State} (h : s.seq ≠ .idle) (v : Word) : s.memWrite 0x04 v = s.overrunCmd :=
  if_pos (s.busy_eq_true_iff.mpr h)

/-- Settles O10: acceptance or the drop, by whether the block is idle. -/
theorem cmdWriteAcceptsOrOverruns : Obligations.CmdWriteAcceptsOrOverruns :=
  fun _ v => ⟨fun hidle => State.memWrite_cmd_of_idle hidle v, fun hbusy => State.memWrite_cmd_of_not_idle hbusy v⟩

/-! The core's turn (R24, R27, R38, R205). -/

/-- Of `s` itself, and so of every update of `s` in other fields than the ones compared. -/
theorem unchanged_refl (s : State) : SameCommand s s ∧ SameHost s s :=
  ⟨⟨rfl, rfl, rfl, rfl, rfl⟩, rfl, rfl, rfl, rfl, rfl⟩

theorem State.setResNode_unchanged (n : Node) (s : State) :
    SameCommand s (s.setResNode n) ∧ SameHost s (s.setResNode n) := by
  cases n <;> exact unchanged_refl s

theorem exec_unchanged {i : Instr} {s t : State} (h : exec i s = .next t) : SameCommand s t ∧ SameHost s t := by
  cases i
  case genc =>
    obtain ⟨tab, -, rfl⟩ := (execGenc_eq_next_iff s t).mp h
    exact unchanged_refl s
  case rdcode c k =>
    obtain hk | hk := lt_or_ge 7 k.toNat
    · cases (exec_rdcode_of_gt hk c s).symm.trans h
      exact unchanged_refl s
    · cases (exec_rdcode_of_le hk c s).symm.trans h
      exact unchanged_refl s
  case rdnode j =>
    obtain hj | hj := le_or_gt s.nodeCount j.toNat
    · cases (exec_rdnode_of_ge hj).symm.trans h
      exact unchanged_refl s
    · cases (exec_rdnode_of_lt hj).symm.trans h
      exact s.setResNode_unchanged _
  all_goals
    cases h
    exact unchanged_refl s

theorem encRun_unchanged {s t : State} (hrun : EncRunning s) (ht : coreStep s = .next t) :
    SameCommand s t ∧ SameHost s t := by
  obtain ⟨-, -, -, -, -, -, hcommand, hhost, -⟩ := (encRun_turn (.inl hrun) ht).1.unchanged
  exact ⟨hcommand, hhost⟩

theorem decRun_unchanged {s t : State} (hrun : DecRunning s) (ht : coreStep s = .next t) :
    SameCommand s t ∧ SameHost s t := by
  obtain ⟨-, -, -, -, -, -, hcommand, hhost, -⟩ := (decRun_turn (.inl hrun) ht).unchanged
  exact ⟨hcommand, hhost⟩

/-- No turn of the core, in any state of the sequencer, writes a register that is the host's to write, OVERRUN, or
anything of the host's but the ports. -/
theorem coreStep_unchanged {s t : State} (h : coreStep s = .next t) : SameCommand s t ∧ SameHost s t := by
  cases hseq : s.seq with
  | idle =>
    simp only [coreStep, hseq] at h
    cases h
    exact unchanged_refl s
  | exec =>
    cases hdec : decode s.lcmd with
    | none =>
      cases (coreStep_of_decode_eq_none hseq hdec).symm.trans h
      exact unchanged_refl s
    | some i => exact exec_unchanged ((coreStep_of_decode_eq_some hseq hdec).symm.trans h)
  | encFetch => exact encRun_unchanged (.inl hseq) h
  | encBit c j => exact encRun_unchanged (.inr (.inl ⟨c, j, hseq⟩)) h
  | encClose e => exact encRun_unchanged (.inr (.inr ⟨e, hseq⟩)) h
  | decFetch => exact decRun_unchanged (.inl hseq) h
  | decEmit c => exact decRun_unchanged (.inr (.inl ⟨c, hseq⟩)) h
  | decClose => exact decRun_unchanged (.inr (.inr hseq)) h

theorem coreStep_overrun {s t : State} (h : coreStep s = .next t) : t.overrun = s.overrun := by
  obtain ⟨⟨-, -, -, -, hoverrun⟩, -⟩ := coreStep_unchanged h
  exact hoverrun

/-! How OVERRUN moves (R205). -/

/-- The host's next operation is a CMD write that will be dropped. -/
def DroppedCmdNext (s : State) : Prop := s.busy = true ∧ ∃ v rest, s.program = .wr .cmd v :: rest

/-- The host's next operation is one of those that clear OVERRUN: a reset, or a write of 1 to STATUS[8]. -/
def OverrunClearNext (s : State) : Prop :=
  ResetNext s ∨ ∃ v rest, v.getLsbD 8 = true ∧ s.program = .wr .status v :: rest

/-- OVERRUN in `t`, the state after a step from `s`: as it was, set by a dropped CMD write, or cleared. -/
def OverrunMoves (s t : State) : Prop :=
  t.overrun = s.overrun ∨ (t.overrun = true ∧ DroppedCmdNext s) ∨ (t.overrun = false ∧ OverrunClearNext s)

theorem State.getToken_overrun (s : State) (p : OutPort) : (s.getToken p).overrun = s.overrun := by
  obtain h | ⟨t, r, -, h⟩ | ⟨t, r, -, h⟩ := s.getToken_cases p <;> rw [h]

theorem writeReg_overrunMoves {s : State} {r : Reg} {v : Word} {rest : List HostOp}
    (hprog : s.program = .wr r v :: rest) : OverrunMoves s (s.writeReg r v) := by
  obtain h | ⟨rfl, hbusy, h⟩ | ⟨rfl, -, h⟩ | ⟨rfl, hv, h⟩ | ⟨rfl, h⟩ | ⟨rfl, hv, h⟩ := s.writeReg_cases r v <;> rw [h]
  · exact .inl rfl
  · exact .inr (.inl ⟨rfl, hbusy, v, rest, hprog⟩)
  · exact .inl rfl
  · exact .inr (.inr ⟨rfl, .inr ⟨v, rest, hv, hprog⟩⟩)
  · exact .inl rfl
  · exact .inr (.inr ⟨rfl, .inl ⟨rest, .inr ⟨v, hv, hprog⟩⟩⟩)

theorem hostOp_overrunMoves {s : State} {op : HostOp} {rest : List HostOp} (hprog : s.program = op :: rest) :
    OverrunMoves s (hostOp op s) := by
  obtain ⟨r, v, rfl, h⟩ | ⟨r, h⟩ | ⟨q, h⟩ | ⟨q, h⟩ | ⟨p, h⟩ | ⟨rfl, h⟩ := hostOp_cases op s <;> rw [h]
  · exact writeReg_overrunMoves hprog
  · exact .inl rfl
  · exact .inl rfl
  · exact .inl rfl
  · exact .inl (s.getToken_overrun p)
  · exact .inr (.inr ⟨rfl, .inl ⟨rest, .inl hprog⟩⟩)

theorem hostStep_overrunMoves (s : State) : OverrunMoves s (hostStep s) := by
  obtain ⟨-, h⟩ | ⟨op, rest, hprog, -, h⟩ | ⟨op, rest, hprog, -, h⟩ := hostStep_cases s <;> rw [h]
  · exact .inl rfl
  · exact hostOp_overrunMoves hprog
  · exact hostOp_overrunMoves hprog

/-- Only the host's turn moves OVERRUN; that the schedule's head is consumed first changes nothing it depends on. -/
theorem step_overrunMoves {s t : State} (h : step s = .next t) : OverrunMoves s t := by
  obtain ⟨rest, -, hs⟩ | ⟨rest, -, hs⟩ | ⟨-, -, hs⟩ | ⟨-, -, hs⟩ := step_cases s <;> rw [hs] at h
  · have hkept := coreStep_overrun h
    exact .inl hkept
  · cases h
    exact hostStep_overrunMoves { s with sched := rest }
  · exact .inl (coreStep_overrun h)
  · cases h
    exact hostStep_overrunMoves s

theorem OverrunMoves.droppedCmdNext_of_rise {s t : State} (h : OverrunMoves s t) (hs : s.overrun = false)
    (ht : t.overrun = true) : DroppedCmdNext s := by
  obtain heq | ⟨-, hnext⟩ | ⟨hclear, -⟩ := h
  · simp [hs, ht] at heq
  · exact hnext
  · simp [ht] at hclear

theorem OverrunMoves.overrunClearNext_of_fall {s t : State} (h : OverrunMoves s t) (hs : s.overrun = true)
    (ht : t.overrun = false) : OverrunClearNext s := by
  obtain heq | ⟨hset, -⟩ | ⟨-, hnext⟩ := h
  · simp [hs, ht] at heq
  · simp [ht] at hset
  · exact hnext

/-- Settles O11: of the three ways OVERRUN can move in a step, one raises it and one lowers it. -/
theorem overrunIsSticky : Obligations.OverrunIsSticky :=
  ⟨fun _ v hbusy => State.memWrite_cmd_of_not_idle hbusy v, fun _ _ hstep =>
    ⟨(step_overrunMoves hstep).droppedCmdNext_of_rise, (step_overrunMoves hstep).overrunClearNext_of_fall⟩⟩

end Sys2Proof.Machine
end

section
/-! PROOFS. The block after a reset (R230, R231): how its tables, NODE_COUNT, the flags of STATUS and the bus read. The
obligation O18. -/

namespace Sys2Proof.Machine

/-! The values computed from the fields: an empty table reads 0 everywhere (R30, R35), and of the flags of STATUS that
are not stored none is set (R25). -/

@[simp] theorem State.freqAt_blockReset (s : State) (c : Sym) : s.blockReset.freqAt c = 0 := by
  rw [State.freqAt, State.blockReset_freq, tableGet_nil]

@[simp] theorem State.lenAt_blockReset (s : State) (c : Sym) : s.blockReset.lenAt c = 0 := by
  rw [State.lenAt, State.blockReset_len, tableGet_nil]

@[simp] theorem State.codeAt_blockReset (s : State) (c : Sym) : s.blockReset.codeAt c = 0 := by
  rw [State.codeAt, State.blockReset_code, tableGet_nil]

@[simp] theorem State.nodeCount_blockReset (s : State) : s.blockReset.nodeCount = 0 := by
  simp [State.nodeCount]

@[simp] theorem State.busy_blockReset (s : State) : s.blockReset.busy = false := by
  simp [State.busy]

@[simp] theorem State.treePresent_blockReset (s : State) : s.blockReset.treePresent = false := by
  simp [State.treePresent]

@[simp] theorem State.singleton_blockReset (s : State) : s.blockReset.singleton = false := by
  simp [State.singleton]

@[simp] theorem State.err_blockReset (s : State) : s.blockReset.err = false := by
  simp [State.err]

theorem State.statusWord_blockReset (s : State) : s.blockReset.statusWord = 0 := by
  simp [State.statusWord]

/-! What the bus reads. -/

@[simp] theorem State.memRead_id (s : State) : s.memRead 0x00 = 0x48554646 := rfl

theorem State.memRead_status_blockReset (s : State) : s.blockReset.memRead 0x08 = 0 := by
  rw [State.memRead_status, State.statusWord_blockReset]

theorem State.memRead_treeinfo_blockReset (s : State) : s.blockReset.memRead 0x0C = 0 := by
  rw [State.memRead_treeinfo, State.treeInfoWord_blockReset]

/-! The operation. -/

theorem hostOp_reset (s : State) : hostOp .reset s = s.blockReset := rfl

/-- Settles O18: RESET is the block reset, and each conjunct is the law of one field or of one value computed from them;
nothing is said of NODE. -/
theorem resetValues : Obligations.ResetValues := by
  intro s
  rw [hostOp_reset]
  exact
    ⟨s.blockReset_seq, s.blockReset_cmd, s.blockReset_data0, s.blockReset_res0, s.blockReset_res1, s.blockReset_res2,
      s.blockReset_res3, s.blockReset_errinfo, s.blockReset_errcode, s.blockReset_overrun, s.blockReset_decMidpath,
      s.blockReset_codesValid, s.blockReset_encNsym, s.blockReset_encNbit, s.blockReset_decNbit, s.blockReset_decNsym,
      s.freqAt_blockReset, s.blockReset_treeSize, s.blockReset_root,
      fun c => ⟨s.lenAt_blockReset c, s.codeAt_blockReset c⟩,
      s.nodeCount_blockReset, s.blockReset_lcmd, s.blockReset_ldata, s.blockReset_decPtr,
      s.blockReset.memRead_id, s.memRead_status_blockReset, s.memRead_treeinfo_blockReset,
      s.blockReset_qSymIn, s.blockReset_qBitIn, s.blockReset_rBitOut, s.blockReset_rSymOut⟩

end Sys2Proof.Machine
end

section
/-! PROOFS. The decoder as a whole (R80 to R88): the words it refuses are exactly the illegal ones, and it undoes the
encoder in both numberings. The obligations O1, O2, O3 and O4. -/

namespace Sys2Proof

/-- Two adjacent slices that are all zero make one. -/
theorem extractLsb'_eq_zero_of_halves {w : Word} {start m n : Nat} (hlow : w.extractLsb' start m = 0)
    (hhigh : w.extractLsb' (start + m) n = 0) : w.extractLsb' start (n + m) = 0 := by
  rw [← BitVec.extractLsb'_append_extractLsb'_eq_extractLsb' rfl, hlow, hhigh]
  exact BitVec.zero_append_zero

/-- What R82's checks say of the word itself: RSV is zero, and so are ARG or the bits of it above the operand. -/
theorem slices_eq_zero_of_zerosHold {w : Word} (h : (CommandWord.ofWord w).zerosHold = true) :
    w.extractLsb' 16 12 = 0 ∧
    ((w.extractLsb' 28 4).toNat ∈ [2, 3] → w.extractLsb' 8 20 = 0) ∧
    ((w.extractLsb' 28 4).toNat = 9 → w.extractLsb' 9 19 = 0) ∧
    ((w.extractLsb' 28 4).toNat ∉ [2, 3, 8, 9] → w.extractLsb' 0 28 = 0) := by
  obtain ⟨hrsv, harg⟩ := Bool.and_eq_true_iff.mp h
  have hrsv : w.extractLsb' 16 12 = 0 := of_decide_eq_true hrsv
  have hslice {start len : Nat} (hle : start + len ≤ 16) := CommandWord.ofWord_arg_slice w hle
  refine ⟨hrsv, fun hop => ?symbol, fun hop => ?node, fun hop => ?whole⟩
  all_goals
    unfold CommandWord.argZeros at harg
    simp only [CommandWord.ofWord] at harg hslice
  case symbol =>
    have hzero : (w.extractLsb' 0 16).extractLsb' 8 8 = 0 := by
      obtain hop | hop := List.mem_pair.mp hop <;> simpa [hop] using harg
    exact extractLsb'_eq_zero_of_halves (m := 8) (n := 12) ((hslice (by decide)).symm.trans hzero) hrsv
  case node =>
    have hzero : (w.extractLsb' 0 16).extractLsb' 9 7 = 0 := by simpa [hop] using harg
    exact extractLsb'_eq_zero_of_halves (m := 7) (n := 12) ((hslice (by decide)).symm.trans hzero) hrsv
  case whole =>
    refine extractLsb'_eq_zero_of_halves (m := 16) (n := 12) ?_ hrsv
    generalize (w.extractLsb' 28 4).toNat = op at hop harg
    split at harg
    case h_5 => exact of_decide_eq_true harg
    all_goals exact absurd (by decide) hop

theorem decode_ne_none_of_checks {w : Word} (hop : (w.extractLsb' 28 4).toNat < 10)
    (h : (CommandWord.ofWord w).zerosHold = true) : decode w ≠ none := by
  obtain ⟨hrsv, hsymbol, hnode, hwhole⟩ := slices_eq_zero_of_zerosHold h
  unfold decode
  split
  case h_3 hop => simp [hsymbol (by simp [hop])]
  case h_4 hop => simp [hsymbol (by simp [hop])]
  case h_9 => simp [hrsv]
  case h_10 hop => simp [hnode hop]
  case h_11 h0 h1 h2 h3 h4 h5 h6 h7 h8 h9 =>
    generalize (w.extractLsb' 28 4).toNat = op at *
    interval_cases op <;> contradiction
  all_goals
    rename_i hop
    simp [hwhole (by simp [hop])]

/-- The numbering of the opcode table reads a word back as itself. -/
theorem decodeTableWord_toNat (w : Word) : decodeTableWord 32 w.toNat = decode w := by
  rw [decodeTableWord, Nat.mod_eq_of_lt w.isLt, BitVec.ofNat_toNat, BitVec.setWidth_eq]

/-- Settles O1: the decoder undoes the encoder, and the table's numbering of a word is the word. -/
theorem encodeThenDecode : Obligations.EncodeThenDecode :=
  fun i => ⟨decode_encode i, (decodeTableWord_toNat _).trans (decode_encode i)⟩

/-- Settles O2: a word that decodes is the encoding of what it decodes to. -/
theorem decodeThenEncode : Obligations.DecodeThenEncode :=
  fun _ _ h => (eq_encode_of_decode_eq_some h).symm

/-- Settles O3: a word that decodes passes R82's checks, and one that passes them meets a row that accepts it. -/
theorem decodeRefusesExactlyIllegalWords : Obligations.DecodeRefusesExactlyIllegalWords := by
  refine fun w => ⟨fun hnone => ?refused, fun hbad => decode_eq_none_of_not_wellFormed ?illegal⟩
  case refused =>
    by_contra! hlegal
    exact decode_ne_none_of_checks hlegal.1 (Bool.eq_true_of_not_eq_false hlegal.2) hnone
  case illegal =>
    obtain hop | hzeros := hbad
    · have : (CommandWord.ofWord w).opReserved = true := decide_eq_true hop
      simp [CommandWord.wellFormed, this]
    · simp [CommandWord.wellFormed, hzeros]

/-- Settles O4: each word is evaluated, and RDCODE's word index 8 is past its range check. -/
theorem workedEncodings : Obligations.WorkedEncodings :=
  ⟨rfl, rfl, rfl, rfl, rfl, rfl, rfl, rfl, fun s => Machine.exec_rdcode_of_gt (k := 8) (by decide) 0 s⟩

end Sys2Proof
end

section
/-! PROOFS. The register map as the bus sees it (R20 to R29, R44 to R46, R63) and the host's operations (R89): what each
offset reads, the fields of STATUS, and what a write changes. The obligations O12, O13, O15 and O17. -/

namespace Sys2Proof.Machine

/-! The bus. -/

/-- The byte offset of a register reaches it (R20, R60). -/
theorem Reg.ofOffset_offset (r : Reg) : Reg.ofOffset r.offset = r := by cases r <;> rfl

@[simp] theorem State.memRead_offset (r : Reg) (s : State) : s.memRead r.offset = s.readReg r := by
  rw [State.memRead, r.ofOffset_offset]

@[simp] theorem State.memWrite_offset (r : Reg) (v : Word) (s : State) : s.memWrite r.offset v = s.writeReg r v := by
  rw [State.memWrite, r.ofOffset_offset]

/-- Settles O12: each offset reaches its register, and a read of it is the register map's value. -/
theorem busReadMap : Obligations.BusReadMap := fun s =>
  ⟨s.memRead_id, s.memRead_cmd, s.memRead_status, s.memRead_treeinfo, s.memRead_offset .data0, s.memRead_offset .res0,
    s.memRead_offset .res1, s.memRead_offset .res2, s.memRead_offset .res3, s.memRead_offset .errinfo, s.memRead_srst,
    s.memRead_offset .encNsym, s.memRead_offset .encNbit, s.memRead_offset .decNbit, s.memRead_offset .decNsym,
    s.memRead_offset .reserved⟩

/-- Settles O15: of the offsets, 0x10 alone reaches DATA0, and each of the twelve others a register without a write. -/
theorem busWriteEffects : Obligations.BusWriteEffects := by
  refine fun s v => ⟨s.memWrite_offset .data0 v, fun off hoff => ?_⟩
  simp only [List.mem_cons, List.not_mem_nil, or_false] at hoff
  obtain rfl | rfl | rfl | rfl | rfl | rfl | rfl | rfl | rfl | rfl | rfl | rfl := hoff
  · exact s.memWrite_offset .id v
  · exact s.memWrite_treeinfo v
  · exact s.memWrite_offset .res0 v
  · exact s.memWrite_offset .res1 v
  · exact s.memWrite_offset .res2 v
  · exact s.memWrite_offset .res3 v
  · exact s.memWrite_offset .errinfo v
  · exact s.memWrite_offset .encNsym v
  · exact s.memWrite_offset .encNbit v
  · exact s.memWrite_offset .decNbit v
  · exact s.memWrite_offset .decNsym v
  · exact s.memWrite_offset .reserved v

/-! STATUS (R25). -/

theorem getLsbD_append_flag_zero {n : Nat} (x : BitVec n) (b : Bool) : (x ++ BitVec.ofBool b).getLsbD 0 = b := by
  rw [BitVec.getLsbD_append, if_pos Nat.one_pos, BitVec.getLsbD_ofBool]
  rfl

theorem getLsbD_append_flag_succ {n : Nat} (x : BitVec n) (b : Bool) (i : Nat) :
    (x ++ BitVec.ofBool b).getLsbD (i + 1) = x.getLsbD i :=
  BitVec.getLsbD_append.trans (if_neg (by omega))

/-- The flags below ERRCODE at their bits. -/
theorem State.statusWord_low_flags (s : State) :
    s.statusWord.getLsbD 0 = s.busy ∧ s.statusWord.getLsbD 1 = s.treePresent ∧
    s.statusWord.getLsbD 2 = s.codesValid ∧ s.statusWord.getLsbD 3 = s.err := by
  unfold State.statusWord
  refine ⟨?_, ?_, ?_, ?_⟩
  · rw [getLsbD_append_flag_zero]
  · rw [getLsbD_append_flag_succ, getLsbD_append_flag_zero]
  · rw [getLsbD_append_flag_succ, getLsbD_append_flag_succ, getLsbD_append_flag_zero]
  · rw [getLsbD_append_flag_succ, getLsbD_append_flag_succ, getLsbD_append_flag_succ, getLsbD_append_flag_zero]

/-- The bits above ERRCODE. -/
theorem State.statusWord_getLsbD_high (s : State) (i : Nat) : s.statusWord.getLsbD (i + 8) =
    (0#21 ++ BitVec.ofBool s.singleton ++ BitVec.ofBool s.decMidpath ++ BitVec.ofBool s.overrun).getLsbD i := by
  unfold State.statusWord
  rw [getLsbD_append_flag_succ, getLsbD_append_flag_succ, getLsbD_append_flag_succ, getLsbD_append_flag_succ,
    BitVec.getLsbD_append, if_neg (by omega), Nat.add_sub_cancel]

/-- The flags above ERRCODE at their bits. -/
theorem State.statusWord_high_flags (s : State) :
    s.statusWord.getLsbD 8 = s.overrun ∧ s.statusWord.getLsbD 9 = s.decMidpath ∧
    s.statusWord.getLsbD 10 = s.singleton := by
  refine ⟨(s.statusWord_getLsbD_high 0).trans ?_, (s.statusWord_getLsbD_high 1).trans ?_,
    (s.statusWord_getLsbD_high 2).trans ?_⟩
  · rw [getLsbD_append_flag_zero]
  · rw [getLsbD_append_flag_succ, getLsbD_append_flag_zero]
  · rw [getLsbD_append_flag_succ, getLsbD_append_flag_succ, getLsbD_append_flag_zero]

/-- The bits from ERRCODE up, with the four flags below it taken off. -/
theorem State.statusWord_above_flags (s : State) {start len : Nat} (h : 4 ≤ start) :
    s.statusWord.extractLsb' start len =
      (0#21 ++ BitVec.ofBool s.singleton ++ BitVec.ofBool s.decMidpath ++ BitVec.ofBool s.overrun
        ++ s.errcode).extractLsb' (start - 4) len := by
  unfold State.statusWord
  iterate 4 rw [BitVec.extractLsb'_append_eq_of_le (by omega)]
  simp only [Nat.sub_sub]

theorem State.statusWord_errcode_field (s : State) : s.statusWord.extractLsb' 4 4 = s.errcode :=
  (s.statusWord_above_flags (by decide)).trans BitVec.extractLsb'_append_eq_right

theorem State.statusWord_high_gap (s : State) : s.statusWord.extractLsb' 11 21 = 0 := by
  rw [s.statusWord_above_flags (by decide)]
  iterate 3 rw [BitVec.extractLsb'_append_eq_of_le (by decide)]
  exact BitVec.extractLsb'_append_eq_left

theorem State.memWrite_status (s : State) (v : Word) :
    s.memWrite 0x08 v = if v.getLsbD 8 then { s with overrun := false } else s := rfl

/-- Settles O13: the fields by the bits of STATUS; the write by its bit 8. -/
theorem statusFields : Obligations.StatusFields := by
  intro s
  refine ⟨?fields, fun v => ?write⟩
  case fields =>
    obtain ⟨hbusy, hpresent, hvalid, herr⟩ := s.statusWord_low_flags
    obtain ⟨hoverrun, hmidpath, hsingleton⟩ := s.statusWord_high_flags
    rw [State.memRead_status]
    refine ⟨?_, ?_, hvalid, ?_, s.statusWord_errcode_field, hoverrun, hmidpath, ?_, s.statusWord_high_gap⟩
    · rw [hbusy, State.busy_eq_true_iff]
    · rw [hpresent, State.treePresent, decide_eq_true_iff]
    · rw [herr, State.err, decide_eq_true_iff]
    · rw [hsingleton, State.singleton, decide_eq_true_iff]
  case write =>
    rw [State.memWrite_status]
    cases v.getLsbD 8 <;> simp

/-! The host's operations (R89). -/

theorem hostOpDone_poll (s : State) : hostOpDone .poll s = !(s.memRead 0x08).getLsbD 0 := by
  rw [State.memRead_status, State.statusWord_bit_zero]
  rfl

/-- Settles O17: each operation by its definition; the bus operations through the offset of their register, and GET by
what its port holds. -/
theorem hostOperations : Obligations.HostOperations := by
  refine fun s => ⟨fun r v => (s.memWrite_offset r v).symm, fun r => ?read, rfl, hostOpDone_poll s, fun _ => rfl,
    fun _ => rfl, fun h => ?bitEmpty, fun t r h => ?bitHead, fun h => ?symEmpty, fun t r h => ?symHead, rfl, rfl⟩
  case read =>
    rw [State.memRead_offset]
    rfl
  all_goals simp only [hostOp, State.getToken, h]

end Sys2Proof.Machine
end

section
/-! PROOFS. What the EXEC step of each command does, said once (R100 to R106, R120, R140, R160, R180), and what follows
for errors and frames. The obligations O9, O8, O29 and O5. -/

namespace Sys2Proof.Machine

open Sys2Proof.Safety

/-! The EXEC step of each command. -/

/-- The read commands, which write RES0 to RES3 (R104 to R106). -/
def IsRead (i : Instr) : Prop := (∃ c, i = .rdf c) ∨ (∃ c k, i = .rdcode c k) ∨ ∃ j, i = .rdnode j

/-- The operands that R85's range checks refuse. -/
def OutOfRange (s : State) (i : Instr) : Prop :=
  (∃ c k, i = .rdcode c k ∧ 7 < k.toNat) ∨ ∃ j, i = .rdnode j ∧ s.nodeCount ≤ j.toNat

theorem OutOfRange.isRead {s : State} {i : Instr} (h : OutOfRange s i) : IsRead i := by
  obtain ⟨c, k, rfl, -⟩ | ⟨j, rfl, -⟩ := h
  · exact .inr (.inl ⟨c, k, rfl⟩)
  · exact .inr (.inr ⟨j, rfl⟩)

/-- `ExecEffect s i t`: the EXEC step of the command `i` can take `s` to `t`. -/
inductive ExecEffect (s : State) : Instr → State → Prop where
  | nop : ExecEffect s .nop (s.complete 0)
  | clrf : ExecEffect s .clrf (State.complete 0 { s with freq := [] })
  | wrf (c : Sym) : ExecEffect s (.wrf c) ((s.setFreq c s.ldata).complete 0)
  | read {i : Instr} (hi : IsRead i) (hrange : ¬ OutOfRange s i) (r0 r1 r2 r3 : Word) :
      ExecEffect s i ((s.setRes r0 r1 r2 r3).complete 0)
  | range {i : Instr} (hrange : OutOfRange s i) : ExecEffect s i (s.complete 2)
  | build : ExecEffect s .build ((s.buildTree Config.tieSel).complete 0)
  | genc {tab : CodeTab} (htab : genTable s.treeSize.val s.root s.node = .ok tab) :
      ExecEffect s .genc (s.completeGenc tab)
  | enc : ExecEffect s .enc s.encStarted
  | dec : ExecEffect s .dec s.decStarted

theorem State.exists_setResNode_eq_setRes (n : Node) (s : State) :
    ∃ r0 r1 r2 r3, s.setResNode n = s.setRes r0 r1 r2 r3 := by
  cases n with
  | leaf c w => exact ⟨_, _, _, _, s.setResNode_leaf c w⟩
  | internal l r w => exact ⟨_, _, _, _, s.setResNode_internal l r w⟩

theorem execEffect_rdcode (c : Sym) (k : BitVec 8) (s : State) :
    ∃ t, exec (.rdcode c k) s = .next t ∧ ExecEffect s (.rdcode c k) t := by
  obtain hk | hk := lt_or_ge 7 k.toNat
  · exact ⟨_, exec_rdcode_of_gt hk c s, .range (.inl ⟨c, k, rfl, hk⟩)⟩
  · refine ⟨_, exec_rdcode_of_le hk c s, .read (.inr (.inl ⟨c, k, rfl⟩)) ?_ _ _ _ _⟩
    rintro (⟨_, _, heq, hlt⟩ | ⟨_, heq, -⟩) <;> cases heq
    exact hlt.not_ge hk

theorem execEffect_rdnode (j : BitVec 9) (s : State) :
    ∃ t, exec (.rdnode j) s = .next t ∧ ExecEffect s (.rdnode j) t := by
  obtain hj | hj := le_or_gt s.nodeCount j.toNat
  · exact ⟨_, exec_rdnode_of_ge hj, .range (.inr ⟨j, rfl, hj⟩)⟩
  · obtain ⟨r0, r1, r2, r3, hres⟩ := s.exists_setResNode_eq_setRes (s.nodeAt (nodeIx j.toNat))
    refine ⟨_, exec_rdnode_of_lt hj, hres ▸ .read (.inr (.inr ⟨j, rfl⟩)) ?_ r0 r1 r2 r3⟩
    rintro (⟨_, _, heq, -⟩ | ⟨_, heq, hle⟩) <;> cases heq
    exact hle.not_gt hj

theorem execEffect_rdf (c : Sym) (s : State) : ∃ t, exec (.rdf c) s = .next t ∧ ExecEffect s (.rdf c) t := by
  refine ⟨_, rfl, .read (.inl ⟨c, rfl⟩) ?_ _ _ _ _⟩
  rintro (⟨_, _, heq, -⟩ | ⟨_, heq, -⟩) <;> cases heq

/-- Only GENC can stop: every other command has a next state from every state. -/
theorem exists_execEffect {i : Instr} (hi : i ≠ .genc) (s : State) : ∃ t, exec i s = .next t ∧ ExecEffect s i t := by
  cases i with
  | nop => exact ⟨_, rfl, .nop⟩
  | clrf => exact ⟨_, rfl, .clrf⟩
  | wrf c => exact ⟨_, rfl, .wrf c⟩
  | rdf c => exact execEffect_rdf c s
  | build => exact ⟨_, rfl, .build⟩
  | genc => exact absurd rfl hi
  | enc => exact ⟨_, rfl, .enc⟩
  | dec => exact ⟨_, rfl, .dec⟩
  | rdcode c k => exact execEffect_rdcode c k s
  | rdnode j => exact execEffect_rdnode j s

theorem execEffect_of_exec {i : Instr} {s t : State} (h : exec i s = .next t) : ExecEffect s i t := by
  by_cases hi : i = .genc
  · subst hi
    obtain ⟨tab, htab, rfl⟩ := exec_genc_eq_next_iff.mp h
    exact .genc htab
  · obtain ⟨u, hu, heffect⟩ := exists_execEffect hi s
    cases hu.symm.trans h
    exact heffect

/-- Settles O9: of the effects of a command that is over in its EXEC step, E_RANGE alone leaves a code other than 0. -/
theorem rangeErrorsArePrecise : Obligations.RangeErrorsArePrecise := by
  intro i s t hi h
  cases execEffect_of_exec h with
  | range => exact .inr rfl
  | enc => exact absurd rfl hi.1
  | dec => exact absurd rfl hi.2
  | _ => exact .inl rfl

/-- ERRCODE after the EXEC step of a command that started with ERRCODE = 0 (R85, R208). -/
theorem ExecEffect.errcode {s t : State} {i : Instr} (h : ExecEffect s i t) (hs : s.errcode = 0) :
    (OutOfRange s i → t.errcode = 2) ∧ (¬ OutOfRange s i → t.errcode = 0) := by
  have hreads (hno : ¬ IsRead i) (hzero : t.errcode = 0) :
      (OutOfRange s i → t.errcode = 2) ∧ (¬ OutOfRange s i → t.errcode = 0) :=
    ⟨fun hrange => absurd hrange.isRead hno, fun _ => hzero⟩
  cases h with
  | read _ hrange => exact ⟨fun h => absurd h hrange, fun _ => rfl⟩
  | range hrange => exact ⟨fun _ => rfl, fun h => absurd hrange h⟩
  | enc => exact hreads (by simp [IsRead]) hs
  | dec => exact hreads (by simp [IsRead]) hs
  | _ => exact hreads (by simp [IsRead]) rfl

/-- Settles O8: a word that does not decode is illegal, and one that does meets its range check or completes. -/
theorem errorPriority : Obligations.ErrorPriority := by
  intro s t hseq hcode hstep
  have hillegal := decodeRefusesExactlyIllegalWords s.lcmd
  have hreserved : (CommandWord.ofWord s.lcmd).opReserved = true ↔ 10 ≤ (s.lcmd.extractLsb' 28 4).toNat :=
    decide_eq_true_iff
  simp only [hreserved, ← hillegal]
  cases hdec : decode s.lcmd with
  | none =>
    cases (coreStep_of_decode_eq_none hseq hdec).symm.trans hstep
    exact ⟨fun _ => rfl, fun h => absurd rfl h, fun h => absurd rfl h⟩
  | some i =>
    have heffect := execEffect_of_exec ((coreStep_of_decode_eq_some hseq hdec).symm.trans hstep)
    simp only [Option.some.injEq]
    obtain ⟨hrange, hpass⟩ := heffect.errcode hcode
    exact ⟨fun h => absurd h (Option.some_ne_none i), fun _ => hrange, fun _ => hpass⟩

/-! Which commands write FREQ, the tree, the code table and RES0 to RES3. -/

section
variable {s t : State} {i : Instr}

theorem ExecEffect.sameFreq (h : ExecEffect s i t) (hclrf : i ≠ .clrf) (hwrf : ∀ c, i ≠ .wrf c) : SameFreq s t := by
  cases h with
  | clrf => exact absurd rfl hclrf
  | wrf c => exact absurd rfl (hwrf c)
  | _ => rfl

theorem ExecEffect.sameTree (h : ExecEffect s i t) (hbuild : i ≠ .build) : SameTree s t := by
  cases h with
  | build => exact absurd rfl hbuild
  | _ => exact ⟨rfl, rfl, rfl⟩

theorem ExecEffect.sameCodes (h : ExecEffect s i t) (hbuild : i ≠ .build) (hgenc : i ≠ .genc) : SameCodes s t := by
  cases h with
  | build => exact absurd rfl hbuild
  | genc => exact absurd rfl hgenc
  | _ => exact ⟨rfl, rfl, rfl⟩

theorem ExecEffect.sameRes (h : ExecEffect s i t) (hread : ¬ IsRead i) : SameRes s t := by
  cases h with
  | read hi => exact absurd hi hread
  | _ => exact ⟨rfl, rfl, rfl, rfl⟩

/-- A command of spec/40_table_access.md touches nothing of the coder's (R107). -/
theorem ExecEffect.tableAccess_frame (h : ExecEffect s i t) (hi : TableAccess i) :
    SameEncCounters s t ∧ SameDecoder s t ∧ SameEncPorts s t ∧ SameDecPorts s t ∧
    t.errinfo = s.errinfo ∧ t.draws = s.draws := by
  obtain ⟨⟨henc, hdec⟩, hbuild, hgenc⟩ := hi
  cases h
  case build => exact absurd rfl hbuild
  case genc => exact absurd rfl hgenc
  case enc => exact absurd rfl henc
  case dec => exact absurd rfl hdec
  all_goals exact ⟨⟨rfl, rfl⟩, ⟨rfl, rfl, rfl, rfl⟩, ⟨rfl, rfl⟩, ⟨rfl, rfl⟩, rfl, rfl⟩

end

/-- Settles O29: the command has a next state, and its effect names what it writes. -/
theorem tableAccessFrame : Obligations.TableAccessFrame := by
  intro i s hi
  have ⟨hsingle, hbuild, hgenc⟩ := hi
  obtain ⟨t, hexec, heffect⟩ := exists_execEffect hgenc s
  obtain ⟨hencCounters, hdecoder, hencPorts, hdecPorts, herrinfo, hdraws⟩ := heffect.tableAccess_frame hi
  obtain ⟨hcommand, hhost⟩ := exec_unchanged hexec
  refine ⟨t, hexec, exec_seq_of_singleStep hsingle hexec, heffect.sameTree hbuild, heffect.sameCodes hbuild hgenc,
    hencCounters, hdecoder, hencPorts, hdecPorts, hcommand, hhost, herrinfo, hdraws, heffect.sameFreq,
    fun hrdf hrdcode hrdnode => heffect.sameRes ?_⟩
  rintro (⟨c, hc⟩ | ⟨c, k, hk⟩ | ⟨j, hj⟩)
  · exact hrdf c hc
  · exact hrdcode c k hk
  · exact hrdnode j hj

/-! The step at EXEC (R69, R100). -/

/-- Settles O5: whichever way the core comes to move, its step at EXEC is the command's. -/
theorem stepRunsDecodedInstruction : Obligations.StepRunsDecodedInstruction := by
  refine ⟨fun s i ⟨hseq, hdec⟩ => ⟨fun rest hsched => ?scheduled, fun hsched => ?free⟩, fun s nbits w i hdec => ?placed⟩
  case scheduled =>
    simp only [step, hsched]
    exact coreStep_of_decode_eq_some hseq hdec
  case free =>
    simp only [step, hsched, coreEnabled_of_exec hseq, if_true]
    exact coreStep_of_decode_eq_some hseq hdec
  case placed =>
    exact coreStep_of_decode_eq_some (s := s.accept _) rfl hdec

end Sys2Proof.Machine
end

section
/-! PROOFS. What the core's turn can do in every state of the sequencer, said once (R100, R161 to R164, R182 to R186),
when it changes nothing, and which port it uses. The obligations O55, O58 and O59. -/

namespace Sys2Proof.Machine

open Sys2Proof.Safety

/-- `CoreTurn s t`: a turn of the core can take `s` to `t`. One constructor for each thing a turn can be: the core held
or idle, the EXEC step, and each later step of ENC and DEC. -/
inductive CoreTurn (s : State) : State → Prop where
  | held (h : coreEnabled s = false) : CoreTurn s s
  | illegal (hseq : s.seq = .exec) (hdec : decode s.lcmd = none) : CoreTurn s (s.complete 1)
  | command {i : Instr} {t : State} (hrun : AboutToRun i s) (heffect : ExecEffect s i t) : CoreTurn s t
  | encFin {q : List SymToken} (hseq : s.seq = .encFetch) (hq : s.qSymIn = .fin :: q) :
      CoreTurn s { s with qSymIn := q, seq := .encClose 0 }
  | encNoCode {c : Sym} {q : List SymToken} (hseq : s.seq = .encFetch) (hq : s.qSymIn = .sym c :: q)
      (hlen : s.lenAt c = 0) : CoreTurn s { s with qSymIn := q, errinfo := c.setWidth 32, seq := .encClose 3 }
  | encSym {c : Sym} {q : List SymToken} (hseq : s.seq = .encFetch) (hq : s.qSymIn = .sym c :: q)
      (hlen : s.lenAt c ≠ 0) : CoreTurn s { s with qSymIn := q, seq := .encBit c ((s.lenAt c).toNat - 1) }
  | encLastBit {c : Sym} (hseq : s.seq = .encBit c 0) (hready : s.bitOutReady = true) :
      CoreTurn s { s with rBitOut := s.rBitOut ++ [.bit (codeBit (s.codeAt c) 0)], encNbit := s.encNbit + 1,
                          encNsym := s.encNsym + 1, seq := .encFetch }
  | encBit {c : Sym} {j : Nat} (hseq : s.seq = .encBit c (j + 1)) (hready : s.bitOutReady = true) :
      CoreTurn s { s with rBitOut := s.rBitOut ++ [.bit (codeBit (s.codeAt c) (j + 1))], encNbit := s.encNbit + 1,
                          seq := .encBit c j }
  | encClose {e : ErrCode} (hseq : s.seq = .encClose e) (hready : s.bitOutReady = true) :
      CoreTurn s { s with rBitOut := s.rBitOut ++ [.close], errcode := e, seq := .idle }
  | decFin {q : List BitToken} (hseq : s.seq = .decFetch) (hq : s.qBitIn = .fin :: q) (midpath : Bool) :
      CoreTurn s { s with qBitIn := q, decMidpath := midpath, seq := .decClose }
  | decSingleton {b : Bool} {q : List BitToken} {c : Sym} (hseq : s.seq = .decFetch) (hsize : s.treeSize.val ≤ 1)
      (hq : s.qBitIn = .bit b :: q) : CoreTurn s { s with qBitIn := q, decNbit := s.decNbit + 1, seq := .decEmit c }
  | decLeaf {b : Bool} {q : List BitToken} {c : Sym} (hseq : s.seq = .decFetch) (hsize : 2 ≤ s.treeSize.val)
      (hq : s.qBitIn = .bit b :: q) :
      CoreTurn s { s with qBitIn := q, decNbit := s.decNbit + 1, decPtr := s.root, seq := .decEmit c }
  | decDown {b : Bool} {q : List BitToken} {l r l' r' : NodeIx} {v w : Weight} (hseq : s.seq = .decFetch)
      (hsize : 2 ≤ s.treeSize.val) (hq : s.qBitIn = .bit b :: q) (hptr : s.nodeAt s.decPtr = .internal l r w)
      (hchild : s.nodeAt (if b then r else l) = .internal l' r' v) :
      CoreTurn s { s with qBitIn := q, decNbit := s.decNbit + 1, decPtr := if b then r else l }
  | decEmit {c : Sym} (hseq : s.seq = .decEmit c) (hready : s.symOutReady = true) :
      CoreTurn s { s with rSymOut := s.rSymOut ++ [.sym c], decNsym := s.decNsym + 1, seq := .decFetch }
  | decClose (hseq : s.seq = .decClose) (hready : s.symOutReady = true) :
      CoreTurn s { s with rSymOut := s.rSymOut ++ [.fin], errcode := 0, seq := .idle }

section
variable {s t : State}

theorem coreEnabled_of_encFetch (hseq : s.seq = .encFetch) (hq : s.qSymIn = []) : coreEnabled s = false := by
  simp [coreEnabled, hseq, hq]

theorem coreEnabled_of_decFetch (hseq : s.seq = .decFetch) (hq : s.qBitIn = []) : coreEnabled s = false := by
  simp [coreEnabled, hseq, hq]

theorem coreTurn_of_exec (hseq : s.seq = .exec) (h : coreStep s = .next t) : CoreTurn s t := by
  cases hdec : decode s.lcmd with
  | none =>
    cases (coreStep_of_decode_eq_none hseq hdec).symm.trans h
    exact .illegal hseq hdec
  | some i =>
    exact .command ⟨hseq, hdec⟩ (execEffect_of_exec ((coreStep_of_decode_eq_some hseq hdec).symm.trans h))

theorem coreTurn_of_encFetch (hseq : s.seq = .encFetch) : CoreTurn s (encFetchStep s) := by
  obtain ⟨hq, h⟩ | ⟨q, hq, h⟩ | ⟨c, q, hq, hlen, h⟩ | ⟨c, q, hq, hlen, h⟩ := encFetchStep_cases s <;> rw [h]
  · exact .held (coreEnabled_of_encFetch hseq hq)
  · exact .encFin hseq hq
  · exact .encNoCode hseq hq hlen
  · exact .encSym hseq hq hlen

theorem coreTurn_of_encBit {c : Sym} {j : Nat} (hseq : s.seq = .encBit c j) : CoreTurn s (encBitStep c j s) := by
  obtain ⟨hready, h⟩ | ⟨hready, rfl, h⟩ | ⟨hready, j', rfl, h⟩ := encBitStep_cases c j s <;> rw [h]
  · exact .held (by simpa [coreEnabled, hseq] using hready)
  · exact .encLastBit hseq hready
  · exact .encBit hseq hready

theorem coreTurn_of_encClose {e : ErrCode} (hseq : s.seq = .encClose e) : CoreTurn s (encCloseStep e s) := by
  obtain ⟨hready, h⟩ | ⟨hready, h⟩ := encCloseStep_cases e s <;> rw [h]
  · exact .held (by simpa [coreEnabled, hseq] using hready)
  · exact .encClose hseq hready

theorem coreTurn_of_decFetchSingleton (hseq : s.seq = .decFetch) (hsize : s.treeSize.val ≤ 1)
    (h : decFetchSingleton s = .next t) : CoreTurn s t := by
  obtain ⟨hq, heq⟩ | ⟨q, hq, heq⟩ | ⟨b, q, c, w, hq, -, heq⟩ | ⟨b, q, l, r, w, -, -, heq⟩ :=
    decFetchSingleton_cases s <;> cases heq.symm.trans h
  · exact .held (coreEnabled_of_decFetch hseq hq)
  · exact .decFin hseq hq s.decMidpath
  · exact .decSingleton hseq hsize hq

theorem coreTurn_of_decFetchTree (hseq : s.seq = .decFetch) (hsize : 2 ≤ s.treeSize.val)
    (h : decFetchTree s = .next t) : CoreTurn s t := by
  obtain ⟨hq, heq⟩ | ⟨q, hq, heq⟩ | ⟨b, q, c, w, -, -, heq⟩ | ⟨b, q, l, r, w, c, v, hq, -, -, heq⟩ |
    ⟨b, q, l, r, w, l', r', v, hq, hptr, hchild, heq⟩ := decFetchTree_cases s <;>
    cases heq.symm.trans h
  · exact .held (coreEnabled_of_decFetch hseq hq)
  · exact .decFin hseq hq _
  · exact .decLeaf hseq hsize hq
  · exact .decDown hseq hsize hq hptr hchild

theorem coreTurn_of_decEmit {c : Sym} (hseq : s.seq = .decEmit c) : CoreTurn s (decEmitStep c s) := by
  obtain ⟨hready, h⟩ | ⟨hready, h⟩ := decEmitStep_cases c s <;> rw [h]
  · exact .held (by simpa [coreEnabled, hseq] using hready)
  · exact .decEmit hseq hready

theorem coreTurn_of_decClose (hseq : s.seq = .decClose) : CoreTurn s (decCloseStep s) := by
  obtain ⟨hready, h⟩ | ⟨hready, h⟩ := decCloseStep_cases s <;> rw [h]
  · exact .held (by simpa [coreEnabled, hseq] using hready)
  · exact .decClose hseq hready

theorem coreStep_idle (hseq : s.seq = .idle) : coreStep s = .next s := by
  simp only [coreStep, hseq]

theorem coreTurn_of_coreStep (h : coreStep s = .next t) : CoreTurn s t := by
  cases hseq : s.seq with
  | idle =>
    cases (coreStep_idle hseq).symm.trans h
    exact .held (by simp only [coreEnabled, hseq])
  | exec => exact coreTurn_of_exec hseq h
  | encFetch =>
    cases (coreStep_encFetch hseq).symm.trans h
    exact coreTurn_of_encFetch hseq
  | encBit c j =>
    cases (coreStep_encBit hseq).symm.trans h
    exact coreTurn_of_encBit hseq
  | encClose e =>
    cases (coreStep_encClose hseq).symm.trans h
    exact coreTurn_of_encClose hseq
  | decFetch =>
    obtain hsize | hsize := Nat.lt_or_ge 1 s.treeSize.val
    · exact coreTurn_of_decFetchTree hseq hsize ((coreStep_decFetch_of_two_le hseq hsize).symm.trans h)
    · exact coreTurn_of_decFetchSingleton hseq hsize
        (((coreStep_decFetch hseq).trans (if_pos hsize)).symm.trans h)
  | decEmit c =>
    cases (coreStep_decEmit hseq).symm.trans h
    exact coreTurn_of_decEmit hseq
  | decClose =>
    cases (coreStep_decClose hseq).symm.trans h
    exact coreTurn_of_decClose hseq

/-! A held core (R42, R43, R224). -/

/-- A core that is idle or held keeps all its state. -/
theorem coreStep_of_not_enabled (h : coreEnabled s = false) : coreStep s = .next s := by
  cases hseq : s.seq with
  | idle => exact coreStep_idle hseq
  | exec => exact absurd ((coreEnabled_of_exec hseq).symm.trans h) (by decide)
  | encFetch => exact coreStep_encFetch_of_nil hseq (by simpa [coreEnabled, hseq] using h)
  | decFetch => exact coreStep_decFetch_of_nil hseq (by simpa [coreEnabled, hseq] using h)
  | encBit c j =>
    have hready : s.bitOutReady = false := by simpa [coreEnabled, hseq] using h
    rw [coreStep_encBit hseq, encBitStep, hready, if_neg Bool.false_ne_true]
  | encClose e =>
    have hready : s.bitOutReady = false := by simpa [coreEnabled, hseq] using h
    rw [coreStep_encClose hseq, encCloseStep, hready, if_neg Bool.false_ne_true]
  | decEmit c =>
    have hready : s.symOutReady = false := by simpa [coreEnabled, hseq] using h
    rw [coreStep_decEmit hseq, decEmitStep, hready, if_neg Bool.false_ne_true]
  | decClose =>
    have hready : s.symOutReady = false := by simpa [coreEnabled, hseq] using h
    rw [coreStep_decClose hseq, decCloseStep, hready, if_neg Bool.false_ne_true]

/-- The EXEC step leaves EXEC. -/
theorem ExecEffect.seq_ne_exec {i : Instr} (h : ExecEffect s i t) : t.seq ≠ .exec := by
  cases h with
  | dec =>
    simp only [State.decStarted]
    split <;> exact SeqState.noConfusion
  | _ => exact SeqState.noConfusion

/-- A turn of a core that is not held changes something: the sequencer, or the length of the port it uses. -/
theorem CoreTurn.ne_of_enabled (h : CoreTurn s t) (henabled : coreEnabled s = true) : t ≠ s := by
  intro heq
  have hseqEq := congrArg State.seq heq
  cases h with
  | held hheld => exact Bool.false_ne_true (hheld.symm.trans henabled)
  | command hrun heffect => exact heffect.seq_ne_exec (hseqEq.trans hrun.1)
  | decDown _ _ hq =>
    have := congrArg State.qBitIn heq
    simp [hq] at this
  | encBit hseq =>
    have := congrArg State.rBitOut heq
    simp at this
  | illegal hseq | encFin hseq | encNoCode hseq | encSym hseq | encLastBit hseq | encClose hseq | decFin hseq
    | decSingleton hseq | decLeaf hseq | decEmit hseq | decClose hseq => exact nomatch hseqEq.trans hseq

/-- Settles O55: a turn that is not held or idle uses a port or leaves EXEC. -/
theorem coreHeldIffUnchanged : Obligations.CoreHeldIffUnchanged := by
  refine fun s => ⟨fun h => ?held, coreStep_of_not_enabled⟩
  by_contra henabled
  exact (coreTurn_of_coreStep h).ne_of_enabled (Bool.eq_true_of_not_eq_false henabled) rfl

/-- Settles O58: no turn of the core touches the command registers or anything of the host's. -/
theorem coreLeavesCommandRegisters : Obligations.CoreLeavesCommandRegisters :=
  fun _ _ => coreStep_unchanged

/-! The ports (R42, R43, R75). -/

/-- A command uses no port in its EXEC step. -/
theorem ExecEffect.samePorts {i : Instr} (h : ExecEffect s i t) : SameEncPorts s t ∧ SameDecPorts s t := by
  cases h <;> exact ⟨⟨rfl, rfl⟩, rfl, rfl⟩

/-- Settles O59: each turn of a run takes from one port, puts on one, or uses none. -/
theorem portsAreFirstInFirstOut : Obligations.PortsAreFirstInFirstOut := by
  intro s t h
  cases coreTurn_of_coreStep h with
  | held | illegal => exact .inl ⟨⟨rfl, rfl⟩, rfl, rfl⟩
  | command _ heffect => exact .inl heffect.samePorts
  | encFin _ hq | encNoCode _ hq | encSym _ hq => exact .inr (.inl ⟨⟨rfl, rfl⟩, rfl, _, hq⟩)
  | encLastBit | encBit | encClose => exact .inr (.inr (.inl ⟨⟨rfl, rfl⟩, rfl, _, rfl⟩))
  | decFin _ hq | decSingleton _ _ hq | decLeaf _ _ hq | decDown _ _ hq =>
    exact .inr (.inr (.inr (.inl ⟨⟨rfl, rfl⟩, rfl, _, hq⟩)))
  | decEmit | decClose => exact .inr (.inr (.inr (.inr ⟨⟨rfl, rfl⟩, rfl, _, rfl⟩)))

end

end Sys2Proof.Machine
end

section
/-! PROOFS. What a step of the machine writes, by the agent that moves: the counters of R44, and who writes FREQ, the
tree, the code table, RES0 to RES3 and ERRINFO (R28, R29, R33, R249). The obligations O60, O56 and O57. -/

namespace Sys2Proof.Machine

open Sys2Proof.Safety

/-! The counters (R44). -/

theorem bitTokens_put_bit (r : List OutBitToken) (b : Bool) : bitTokens (r ++ [.bit b]) = bitTokens r + 1 := by
  simp [bitTokens]

theorem bitTokens_put_close (r : List OutBitToken) : bitTokens (r ++ [.close]) = bitTokens r := by
  simp [bitTokens]

theorem symTokens_put_sym (r : List SymToken) (c : Sym) : symTokens (r ++ [.sym c]) = symTokens r + 1 := by
  simp [symTokens]

theorem symTokens_put_fin (r : List SymToken) : symTokens (r ++ [.fin]) = symTokens r := by
  simp [symTokens]

theorem offeredBits_bit (b : Bool) (q : List BitToken) : offeredBits (.bit b :: q) = offeredBits q + 1 := by
  simp [offeredBits]

theorem offeredBits_fin (q : List BitToken) : offeredBits (.fin :: q) = offeredBits q := by
  simp [offeredBits]

/-- The encoder's counters follow the tokens of a turn. -/
def EncCounted (s t : State) : Prop :=
  t.encNbit = s.encNbit + BitVec.ofNat 32 (bitTokens t.rBitOut - bitTokens s.rBitOut) ∧
  t.encNsym = s.encNsym + (if lastBitNext s then 1 else 0)

/-- The decoder's counters follow the tokens of a turn. -/
def DecCounted (s t : State) : Prop :=
  t.decNbit = s.decNbit + BitVec.ofNat 32 (offeredBits s.qBitIn - offeredBits t.qBitIn) ∧
  t.decNsym = s.decNsym + BitVec.ofNat 32 (symTokens t.rSymOut - symTokens s.rSymOut)

section
variable {s t : State}

theorem lastBitNext_eq_true_iff : lastBitNext s = true ↔ (∃ c, s.seq = .encBit c 0) ∧ s.bitOutReady = true := by
  unfold lastBitNext
  split
  · rename_i c hseq
    simp [hseq]
  · rename_i hseq
    exact iff_of_false Bool.false_ne_true fun h => h.1.elim hseq

theorem lastBitNext_of_seq_ne (h : ∀ c, s.seq ≠ .encBit c 0) : lastBitNext s = false :=
  Bool.eq_false_iff.mpr fun hlast => (lastBitNext_eq_true_iff.mp hlast).1.elim h

theorem lastBitNext_of_held (h : coreEnabled s = false) : lastBitNext s = false := by
  refine Bool.eq_false_iff.mpr fun hlast => ?_
  obtain ⟨⟨c, hseq⟩, hready⟩ := lastBitNext_eq_true_iff.mp hlast
  simp [coreEnabled, hseq, hready] at h

/-- No token counted: END and CLOSE are not, and neither is a turn that puts nothing. -/
theorem EncCounted.of_same (hlast : lastBitNext s = false) (hcounters : SameEncCounters s t)
    (htokens : bitTokens t.rBitOut = bitTokens s.rBitOut) : EncCounted s t := by
  obtain ⟨hsym, hbit⟩ := hcounters
  simp [EncCounted, hlast, hsym, hbit, htokens]

theorem DecCounted.of_same (hbit : t.decNbit = s.decNbit) (hsym : t.decNsym = s.decNsym)
    (hbits : offeredBits t.qBitIn = offeredBits s.qBitIn) (hsyms : symTokens t.rSymOut = symTokens s.rSymOut) :
    DecCounted s t := by
  simp [DecCounted, hbit, hsym, hbits, hsyms]

theorem DecCounted.of_taken {b : Bool} {q : List BitToken} (hq : s.qBitIn = .bit b :: q) (hqt : t.qBitIn = q)
    (hbit : t.decNbit = s.decNbit + 1) (hsym : t.decNsym = s.decNsym) (hout : t.rSymOut = s.rSymOut) :
    DecCounted s t := by
  simp [DecCounted, hq, hqt, hbit, hsym, hout, offeredBits_bit]

theorem ExecEffect.encCounted {i : Instr} (h : ExecEffect s i t) (hrun : AboutToRun i s)
    (henc : ¬ AboutToRun .enc s) : EncCounted s t := by
  have hlast : lastBitNext s = false := lastBitNext_of_seq_ne (by simp [hrun.1])
  cases h with
  | enc => exact absurd hrun henc
  | _ => exact .of_same hlast ⟨rfl, rfl⟩ rfl

theorem ExecEffect.decCounted {i : Instr} (h : ExecEffect s i t) (hrun : AboutToRun i s)
    (hdec : ¬ AboutToRun .dec s) : DecCounted s t := by
  cases h with
  | dec => exact absurd hrun hdec
  | _ => exact .of_same rfl rfl rfl rfl

theorem CoreTurn.encCounted (h : CoreTurn s t) (henc : ¬ AboutToRun .enc s) : EncCounted s t := by
  cases h with
  | held hheld => exact .of_same (lastBitNext_of_held hheld) ⟨rfl, rfl⟩ rfl
  | command hrun heffect => exact heffect.encCounted hrun henc
  | encLastBit hseq hready =>
    have hlast : lastBitNext s = true := lastBitNext_eq_true_iff.mpr ⟨⟨_, hseq⟩, hready⟩
    simp [EncCounted, bitTokens_put_bit, hlast]
  | encBit hseq =>
    have hlast : lastBitNext s = false := lastBitNext_of_seq_ne (by simp [hseq])
    simp [EncCounted, bitTokens_put_bit, hlast]
  | encClose hseq => exact .of_same (lastBitNext_of_seq_ne (by simp [hseq])) ⟨rfl, rfl⟩ (bitTokens_put_close _)
  | illegal hseq | encFin hseq | encNoCode hseq | encSym hseq | decFin hseq | decSingleton hseq | decLeaf hseq
    | decDown hseq | decEmit hseq | decClose hseq =>
    exact .of_same (lastBitNext_of_seq_ne (by simp [hseq])) ⟨rfl, rfl⟩ rfl

theorem CoreTurn.decCounted (h : CoreTurn s t) (hdec : ¬ AboutToRun .dec s) : DecCounted s t := by
  cases h with
  | command hrun heffect => exact heffect.decCounted hrun hdec
  | decFin _ hq => exact .of_same rfl rfl (by rw [hq, offeredBits_fin]) rfl
  | decSingleton _ _ hq | decLeaf _ _ hq | decDown _ _ hq => exact .of_taken hq rfl rfl rfl rfl
  | decEmit => simp [DecCounted, symTokens_put_sym]
  | decClose => exact .of_same rfl rfl rfl (symTokens_put_fin _)
  | held | illegal | encFin | encNoCode | encSym | encLastBit | encBit | encClose => exact .of_same rfl rfl rfl rfl

/-- Settles O60: the two starts clear their own pair, and every other turn counts the token it moves. -/
theorem countersCountTokens : Obligations.CountersCountTokens := by
  intro s t h
  refine ⟨fun hstart => ?enc, fun hstart => ?dec, (coreTurn_of_coreStep h).encCounted,
    (coreTurn_of_coreStep h).decCounted⟩
  case enc =>
    cases (coreStep_of_aboutToRun_enc hstart).symm.trans h
    exact ⟨rfl, rfl⟩
  case dec =>
    cases (coreStep_of_aboutToRun_dec hstart).symm.trans h
    exact ⟨rfl, rfl⟩

end

/-! The host's turn. -/

/-- Nothing differs but DATA0, OVERRUN, the ports and the host's own side. -/
def HostFrame (s t : State) : Prop :=
  t = { s with
    data0 := t.data0, overrun := t.overrun, qSymIn := t.qSymIn, qBitIn := t.qBitIn, rBitOut := t.rBitOut
    rSymOut := t.rSymOut, program := t.program, sched := t.sched, rdata := t.rdata, got := t.got }

theorem HostFrame.setProgram {s t : State} (h : HostFrame s t) (p : List HostOp) :
    HostFrame s { t with program := p } := by
  unfold HostFrame at h
  exact congrArg (fun u : State => { u with program := p }) h

theorem HostFrame.errinfo {s t : State} (h : HostFrame s t) : t.errinfo = s.errinfo := by
  rw [h]

/-- The operation is a reset of the block (R230, R231). -/
def IsReset (op : HostOp) : Prop := op = .reset ∨ ∃ v, v.getLsbD 0 = true ∧ op = .wr .srst v

/-- What a turn of the host does to the block: nothing (R65), the acceptance of a command (R203), or a reset (R230). -/
def HostTurn (s t : State) : Prop :=
  HostFrame s t ∨
  (s.seq = .idle ∧ ∃ v rest, s.program = .wr .cmd v :: rest ∧ HostFrame (s.accept v) t) ∨
  (ResetNext s ∧ HostFrame s.blockReset t)

theorem resetNext_of_isReset {s : State} {op : HostOp} {rest : List HostOp} (hprog : s.program = op :: rest)
    (hop : IsReset op) : ResetNext s := by
  obtain rfl | ⟨v, hv, rfl⟩ := hop
  · exact ⟨rest, .inl hprog⟩
  · exact ⟨rest, .inr ⟨v, hv, hprog⟩⟩

theorem hostTurn_of_writeReg {s : State} {r : Reg} {v : Word} {rest : List HostOp}
    (hprog : s.program = .wr r v :: rest) : HostTurn s (s.writeReg r v) := by
  obtain h | ⟨-, -, h⟩ | ⟨rfl, hidle, h⟩ | ⟨-, -, h⟩ | ⟨-, h⟩ | ⟨rfl, hv, h⟩ := s.writeReg_cases r v <;> rw [h]
  · exact .inl rfl
  · exact .inl rfl
  · exact .inr (.inl ⟨s.busy_eq_false_iff.mp hidle, v, rest, hprog, rfl⟩)
  · exact .inl rfl
  · exact .inl rfl
  · exact .inr (.inr ⟨resetNext_of_isReset hprog (.inr ⟨v, hv, rfl⟩), rfl⟩)

theorem hostFrame_getToken (s : State) (p : OutPort) : HostFrame s (s.getToken p) := by
  obtain h | ⟨t, r, -, h⟩ | ⟨t, r, -, h⟩ := s.getToken_cases p <;> rw [h] <;> rfl

theorem hostTurn_of_hostOp {s : State} {op : HostOp} {rest : List HostOp} (hprog : s.program = op :: rest) :
    HostTurn s (hostOp op s) := by
  obtain ⟨r, v, rfl, h⟩ | ⟨r, h⟩ | ⟨q, h⟩ | ⟨q, h⟩ | ⟨p, h⟩ | ⟨rfl, h⟩ := hostOp_cases op s <;> rw [h]
  · exact hostTurn_of_writeReg hprog
  · exact .inl rfl
  · exact .inl rfl
  · exact .inl rfl
  · exact .inl (hostFrame_getToken s p)
  · exact .inr (.inr ⟨resetNext_of_isReset hprog (.inl rfl), rfl⟩)

theorem HostTurn.setProgram {s t : State} (h : HostTurn s t) (p : List HostOp) :
    HostTurn s { t with program := p } := by
  obtain hframe | ⟨hidle, v, rest, hprog, hframe⟩ | ⟨hreset, hframe⟩ := h
  · exact .inl (hframe.setProgram p)
  · exact .inr (.inl ⟨hidle, v, rest, hprog, hframe.setProgram p⟩)
  · exact .inr (.inr ⟨hreset, hframe.setProgram p⟩)

theorem hostTurn_of_hostStep (s : State) : HostTurn s (hostStep s) := by
  obtain ⟨-, h⟩ | ⟨op, rest, hprog, -, h⟩ | ⟨op, rest, hprog, -, h⟩ := hostStep_cases s <;> rw [h]
  · exact .inl rfl
  · exact hostTurn_of_hostOp hprog
  · exact (hostTurn_of_hostOp hprog).setProgram rest

/-- A step is a turn of one agent, with the schedule's head consumed (R69). -/
theorem turn_of_step {s t : State} (h : step s = .next t) :
    (∃ rest, CoreTurn { s with sched := rest } t) ∨ ∃ rest, HostTurn { s with sched := rest } t := by
  obtain ⟨rest, -, hs⟩ | ⟨rest, -, hs⟩ | ⟨-, -, hs⟩ | ⟨-, -, hs⟩ := step_cases s <;> rw [hs] at h
  · exact .inl ⟨rest, coreTurn_of_coreStep h⟩
  · cases h
    exact .inr ⟨rest, hostTurn_of_hostStep _⟩
  · exact .inl ⟨s.sched, coreTurn_of_coreStep h⟩
  · cases h
    exact .inr ⟨s.sched, hostTurn_of_hostStep s⟩

/-! The writers of the tables and of the result registers. -/

/-- FREQ, the tree, the code table and RES0 to RES3 are unchanged. -/
def SameTables (s t : State) : Prop := SameFreq s t ∧ SameTree s t ∧ SameCodes s t ∧ SameRes s t

theorem sameTables_refl (s : State) : SameTables s s := ⟨rfl, ⟨rfl, rfl, rfl⟩, ⟨rfl, rfl, rfl⟩, rfl, rfl, rfl, rfl⟩

theorem HostFrame.sameTables {s t : State} (h : HostFrame s t) : SameTables s t := by
  rw [h]
  exact sameTables_refl s

/-- Of the core's turns, only the EXEC step of a command writes a table or a result register. -/
theorem CoreTurn.sameTables_or_command {s t : State} (h : CoreTurn s t) :
    SameTables s t ∨ ∃ i, AboutToRun i s ∧ ExecEffect s i t := by
  cases h with
  | command hrun heffect => exact .inr ⟨_, hrun, heffect⟩
  | _ => exact .inl (sameTables_refl s)

theorem HostTurn.sameTables_or_reset {s t : State} (h : HostTurn s t) : SameTables s t ∨ ResetNext s := by
  obtain hframe | ⟨-, v, rest, -, hframe⟩ | ⟨hreset, -⟩ := h
  · exact .inl hframe.sameTables
  · exact .inl hframe.sameTables
  · exact .inr hreset

/-- What can write a table or a result register in a step of the machine. -/
theorem step_sameTables_or {s t : State} (h : step s = .next t) :
    SameTables s t ∨ ResetNext s ∨
    ∃ i, AboutToRun i s ∧ (i ≠ .clrf → (∀ c, i ≠ .wrf c) → SameFreq s t) ∧ (i ≠ .build → SameTree s t) ∧
      (i ≠ .build → i ≠ .genc → SameCodes s t) ∧ (¬ IsRead i → SameRes s t) := by
  obtain ⟨rest, hturn⟩ | ⟨rest, hturn⟩ := turn_of_step h
  · obtain hsame | ⟨i, hrun, heffect⟩ := hturn.sameTables_or_command
    · exact .inl hsame
    · exact .inr (.inr ⟨i, hrun, heffect.sameFreq, heffect.sameTree, heffect.sameCodes, heffect.sameRes⟩)
  · obtain hsame | hreset := hturn.sameTables_or_reset
    · exact .inl hsame
    · exact .inr (.inl hreset)

/-- Settles O56: a step that is no reset and runs no writer of a table leaves it as it is. -/
theorem sessionStateWriters : Obligations.SessionStateWriters := by
  intro s t h
  obtain ⟨hfreq, htree, hcodes, -⟩ | hreset | ⟨i, hrun, hfreq, htree, hcodes, -⟩ := step_sameTables_or h
  · exact ⟨absurd hfreq, absurd htree, absurd hcodes⟩
  · exact ⟨fun _ => .inr (.inr hreset), fun _ => .inr hreset, fun _ => .inr (.inr hreset)⟩
  · refine ⟨fun hne => ?freq, fun hne => ?tree, fun hne => ?codes⟩
    case freq =>
      by_contra! hno
      obtain ⟨hclrf, hwrf, -⟩ := hno
      exact hne (hfreq (fun hi => hclrf (hi ▸ hrun)) fun c hi => hwrf c (hi ▸ hrun))
    case tree =>
      by_contra! hno
      obtain ⟨hbuild, -⟩ := hno
      exact hne (htree fun hi => hbuild (hi ▸ hrun))
    case codes =>
      by_contra! hno
      obtain ⟨hbuild, hgenc, -⟩ := hno
      exact hne (hcodes (fun hi => hbuild (hi ▸ hrun)) fun hi => hgenc (hi ▸ hrun))

/-- ENC's fetch takes a symbol without a codeword, and ERRINFO becomes that symbol (R162). -/
def NoCodeTaken (s t : State) : Prop :=
  s.seq = .encFetch ∧ ∃ c q, s.qSymIn = .sym c :: q ∧ s.lenAt c = 0 ∧ t.errinfo = c.setWidth 32

theorem ExecEffect.errinfo {s t : State} {i : Instr} (h : ExecEffect s i t) : t.errinfo = s.errinfo := by
  cases h <;> rfl

theorem CoreTurn.errinfo_same_or_noCode {s t : State} (h : CoreTurn s t) :
    t.errinfo = s.errinfo ∨ NoCodeTaken s t := by
  cases h with
  | command _ heffect => exact .inl heffect.errinfo
  | encNoCode hseq hq hlen => exact .inr ⟨hseq, _, _, hq, hlen, rfl⟩
  | _ => exact .inl rfl

/-- ERRINFO in a turn of the host: kept, cleared by an accepted CMD write (R203), or reset. -/
theorem HostTurn.errinfo_cases {s t : State} (h : HostTurn s t) :
    t.errinfo = s.errinfo ∨ (t.errinfo = 0 ∧ s.seq = .idle ∧ ∃ v rest, s.program = .wr .cmd v :: rest) ∨
    ResetNext s := by
  obtain hframe | ⟨hidle, v, rest, hprog, hframe⟩ | ⟨hreset, -⟩ := h
  · exact .inl hframe.errinfo
  · exact .inr (.inl ⟨hframe.errinfo, hidle, v, rest, hprog⟩)
  · exact .inr (.inr hreset)

/-- Settles O57: RES as the tables; ERRINFO by the agent that moves. -/
theorem resultRegisterWriters : Obligations.ResultRegisterWriters := by
  intro s t h
  refine ⟨fun hne => ?res, fun hne => ?errinfo⟩
  case res =>
    obtain ⟨-, -, -, hres⟩ | hreset | ⟨i, hrun, -, -, -, hres⟩ := step_sameTables_or h
    · exact absurd hres hne
    · exact .inr hreset
    · have hread : IsRead i := by_contra fun hno => hne (hres hno)
      obtain ⟨c, rfl⟩ | ⟨c, k, rfl⟩ | ⟨j, rfl⟩ := hread
      · exact .inl (.inl ⟨c, hrun⟩)
      · exact .inl (.inr (.inl ⟨c, k, hrun⟩))
      · exact .inl (.inr (.inr ⟨j, hrun⟩))
  case errinfo =>
    obtain ⟨rest, hturn⟩ | ⟨rest, hturn⟩ := turn_of_step h
    · obtain hsame | hnoCode := hturn.errinfo_same_or_noCode
      · exact absurd hsame hne
      · exact .inr (.inr hnoCode)
    · obtain hsame | haccept | hreset := hturn.errinfo_cases
      · exact absurd hsame hne
      · exact .inl haccept
      · exact .inr (.inl hreset)

end Sys2Proof.Machine
end

section
/-! PROOFS. The core's turn reads neither DATA0 nor OVERRUN (R38, R73), so it commutes with every write of the two. The
obligation O16. -/

namespace Sys2Proof.Machine

open Sys2Proof.Safety

section
variable {s : State} {b : Bool} {q : List BitToken}

theorem decFetchTree_of_nil (hq : s.qBitIn = []) : decFetchTree s = .next s := by
  simp only [decFetchTree, s.takeBitIn_eq_none_iff.mpr hq]

theorem decFetchTree_of_bit_at_leaf {c : Sym} {w : Weight} (hq : s.qBitIn = .bit b :: q)
    (hptr : s.nodeAt s.decPtr = .leaf c w) : decFetchTree s = .fault .pointerAtLeaf := by
  simp only [decFetchTree, State.takeBitIn_of_cons hq, State.nodeAt_of_bitIn, hptr]

end

/-- A change of DATA0 and OVERRUN alone. -/
def State.mapHostRegs (d : Word → Word) (o : Bool → Bool) (s : State) : State :=
  { s with data0 := d s.data0, overrun := o s.overrun }

section
variable (d : Word → Word) (o : Bool → Bool)

/-! Each step function on the changed state is the step with its result changed. -/

theorem execGenc_mapHostRegs (s : State) :
    execGenc (s.mapHostRegs d o) = mapNext (State.mapHostRegs d o) (execGenc s) := by
  have htable : genTable (s.mapHostRegs d o).treeSize.val (s.mapHostRegs d o).root (s.mapHostRegs d o).node =
      genTable s.treeSize.val s.root s.node := rfl
  cases h : genTable s.treeSize.val s.root s.node <;> simp only [execGenc, htable, h] <;> rfl

theorem setResNode_mapHostRegs (n : Node) (s : State) :
    (s.mapHostRegs d o).setResNode n = (s.setResNode n).mapHostRegs d o := by
  cases n <;> rfl

theorem execRdcode_mapHostRegs (c : Sym) (k : BitVec 8) (s : State) :
    execRdcode c k (s.mapHostRegs d o) = mapNext (State.mapHostRegs d o) (execRdcode c k s) := by
  unfold execRdcode
  split <;> rfl

theorem execRdnode_mapHostRegs (j : BitVec 9) (s : State) :
    execRdnode j (s.mapHostRegs d o) = mapNext (State.mapHostRegs d o) (execRdnode j s) := by
  have hcount : (s.mapHostRegs d o).nodeCount = s.nodeCount := rfl
  unfold execRdnode
  rw [hcount, setResNode_mapHostRegs]
  split <;> rfl

theorem exec_mapHostRegs (i : Instr) (s : State) :
    exec i (s.mapHostRegs d o) = mapNext (State.mapHostRegs d o) (exec i s) := by
  cases i with
  | genc => exact execGenc_mapHostRegs d o s
  | rdcode c k => exact execRdcode_mapHostRegs d o c k s
  | rdnode j => exact execRdnode_mapHostRegs d o j s
  | _ => rfl

theorem execStep_mapHostRegs (s : State) :
    execStep (s.mapHostRegs d o) = mapNext (State.mapHostRegs d o) (execStep s) := by
  have hlcmd : (s.mapHostRegs d o).lcmd = s.lcmd := rfl
  cases h : decode s.lcmd with
  | none =>
    simp only [execStep, hlcmd, h]
    rfl
  | some i =>
    simp only [execStep, hlcmd, h]
    exact exec_mapHostRegs d o i s

theorem encFetchStep_mapHostRegs (s : State) :
    encFetchStep (s.mapHostRegs d o) = (encFetchStep s).mapHostRegs d o := by
  have hport : (s.mapHostRegs d o).qSymIn = s.qSymIn := rfl
  unfold encFetchStep State.takeSymIn
  rw [hport]
  match s.qSymIn with
  | [] => rfl
  | .fin :: _ => rfl
  | .sym c :: q =>
    have hlen : State.lenAt { s.mapHostRegs d o with qSymIn := q } c = State.lenAt { s with qSymIn := q } c := rfl
    simp only [hlen]
    split <;> rfl

theorem encBitStep_mapHostRegs (c : Sym) (j : Nat) (s : State) :
    encBitStep c j (s.mapHostRegs d o) = (encBitStep c j s).mapHostRegs d o := by
  have hready : (s.mapHostRegs d o).bitOutReady = s.bitOutReady := rfl
  unfold encBitStep
  rw [hready]
  cases s.bitOutReady <;> cases j <;> rfl

theorem encCloseStep_mapHostRegs (e : ErrCode) (s : State) :
    encCloseStep e (s.mapHostRegs d o) = (encCloseStep e s).mapHostRegs d o := by
  have hready : (s.mapHostRegs d o).bitOutReady = s.bitOutReady := rfl
  unfold encCloseStep
  rw [hready]
  cases s.bitOutReady <;> rfl

theorem decFetchSingleton_mapHostRegs (s : State) :
    decFetchSingleton (s.mapHostRegs d o) = mapNext (State.mapHostRegs d o) (decFetchSingleton s) := by
  have hport : (s.mapHostRegs d o).qBitIn = s.qBitIn := rfl
  unfold decFetchSingleton State.takeBitIn
  rw [hport]
  match s.qBitIn with
  | [] => rfl
  | .fin :: _ => rfl
  | .bit _ :: q =>
    have hnode : State.nodeAt { s.mapHostRegs d o with qBitIn := q } (s.mapHostRegs d o).root = s.nodeAt s.root := rfl
    simp only [hnode, State.nodeAt_of_bitIn]
    cases s.nodeAt s.root <;> rfl

theorem decFetchTree_mapHostRegs (s : State) :
    decFetchTree (s.mapHostRegs d o) = mapNext (State.mapHostRegs d o) (decFetchTree s) := by
  match hq : s.qBitIn with
  | [] =>
    rw [decFetchTree_of_nil hq]
    exact decFetchTree_of_nil hq
  | .fin :: q =>
    rw [decFetchTree_of_fin hq]
    exact decFetchTree_of_fin hq
  | .bit b :: q =>
    cases hptr : s.nodeAt s.decPtr with
    | leaf c w =>
      rw [decFetchTree_of_bit_at_leaf hq hptr]
      exact decFetchTree_of_bit_at_leaf hq hptr
    | internal l r w =>
      cases hchild : s.nodeAt (if b then r else l) with
      | leaf c v =>
        rw [decFetchTree_of_bit_to_leaf hq hptr hchild]
        exact decFetchTree_of_bit_to_leaf hq hptr hchild
      | internal l' r' v =>
        rw [decFetchTree_of_bit_to_internal hq hptr hchild]
        exact decFetchTree_of_bit_to_internal hq hptr hchild

theorem decFetchStep_mapHostRegs (s : State) :
    decFetchStep (s.mapHostRegs d o) = mapNext (State.mapHostRegs d o) (decFetchStep s) := by
  have hsize : (s.mapHostRegs d o).treeSize = s.treeSize := rfl
  unfold decFetchStep
  rw [hsize, decFetchSingleton_mapHostRegs, decFetchTree_mapHostRegs]
  split <;> rfl

theorem decEmitStep_mapHostRegs (c : Sym) (s : State) :
    decEmitStep c (s.mapHostRegs d o) = (decEmitStep c s).mapHostRegs d o := by
  have hready : (s.mapHostRegs d o).symOutReady = s.symOutReady := rfl
  unfold decEmitStep
  rw [hready]
  cases s.symOutReady <;> rfl

theorem decCloseStep_mapHostRegs (s : State) :
    decCloseStep (s.mapHostRegs d o) = (decCloseStep s).mapHostRegs d o := by
  have hready : (s.mapHostRegs d o).symOutReady = s.symOutReady := rfl
  unfold decCloseStep
  rw [hready]
  cases s.symOutReady <;> rfl

theorem coreStep_mapHostRegs (s : State) :
    coreStep (s.mapHostRegs d o) = mapNext (State.mapHostRegs d o) (coreStep s) := by
  have hkept : (s.mapHostRegs d o).seq = s.seq := rfl
  unfold coreStep
  rw [hkept]
  cases s.seq with
  | idle => rfl
  | exec => exact execStep_mapHostRegs d o s
  | encFetch => exact congrArg _ (encFetchStep_mapHostRegs d o s)
  | encBit c j => exact congrArg _ (encBitStep_mapHostRegs d o c j s)
  | encClose e => exact congrArg _ (encCloseStep_mapHostRegs d o e s)
  | decFetch => exact decFetchStep_mapHostRegs d o s
  | decEmit c => exact congrArg _ (decEmitStep_mapHostRegs d o c s)
  | decClose => exact congrArg _ (decCloseStep_mapHostRegs d o s)

end

/-- Settles O16: both writes change DATA0 and OVERRUN alone. -/
theorem runningCommandIgnoresLaterWrites : Obligations.RunningCommandIgnoresLaterWrites := by
  refine fun s v => ⟨coreStep_mapHostRegs (fun _ => v) id s, fun hbusy => ?_⟩
  rw [State.memWrite_cmd_of_not_idle hbusy]
  exact coreStep_mapHostRegs id (fun _ => true) s

end Sys2Proof.Machine
end

section
/-! PROOFS. The depth of a node in a tree BUILD leaves (R34, R126), the Kraft sum of the leaves, and what they say of
the code table (R144, R145). The obligations O41 and O42. -/

namespace Sys2Proof.Safety

open Sys2Proof.Machine

/-! Depths. -/

/-- `D` is the distance from the root: 0 there, and one more at each child. -/
structure IsDepth (size : Nat) (root : NodeIx) (node : Table Node) (D : NodeIx → Nat) : Prop where
  root_eq : D root = 0
  child : ∀ (j l r : NodeIx) (w : Weight), j.val < 2 * size - 1 → tableGet blankNode node j.val = .internal l r w →
    D l = D j + 1 ∧ D r = D j + 1

/-- The length of the path to each node of the tree. -/
def IsPathLength (size : Nat) (root : NodeIx) (node : Table Node) (D : NodeIx → Nat) : Prop :=
  ∀ i : NodeIx, i.val < 2 * size - 1 → ∃ p, pathFrom node root p = some i ∧ p.length = D i

section
variable {size : Nat} {root : NodeIx} {node : Table Node} {D : NodeIx → Nat}

theorem TreeWf.exists_isPathLength (h : TreeWf size root node) (hsize : 1 ≤ size) :
    ∃ D, IsPathLength size root node D := by
  have hpath (i : NodeIx) : ∃ k, i.val < 2 * size - 1 → ∃ p, pathFrom node root p = some i ∧ p.length = k := by
    by_cases hi : i.val < 2 * size - 1
    · obtain ⟨p, hp, -⟩ := h.existsUnique_pathFrom_root hsize i hi
      exact ⟨p.length, fun _ => ⟨p, hp, rfl⟩⟩
    · exact ⟨0, fun hlt => absurd hlt hi⟩
  choose D hD using hpath
  exact ⟨D, hD⟩

/-- The path to a child is the path to its parent and one bit more. -/
theorem IsPathLength.isDepth (h : TreeWf size root node) (hsize : 1 ≤ size) (hD : IsPathLength size root node D) :
    IsDepth size root node D := by
  have heq {i : NodeIx} {p : List Bool} (hp : pathFrom node root p = some i) : D i = p.length := by
    have hi := h.lt_of_pathFrom_root hsize hp
    obtain ⟨q, hq, hlen⟩ := hD i hi
    rw [← hlen, (h.existsUnique_pathFrom_root hsize i hi).unique hq hp]
  refine ⟨heq (pathFrom_nil node root), fun j l r w hj hn => ?_⟩
  obtain ⟨p, hp, hlen⟩ := hD j hj
  have hchild (b : Bool) : D (if b then r else l) = D j + 1 := by
    rw [heq (pathFrom_concat_eq_some_iff.mpr ⟨j, hp, l, r, w, hn, rfl⟩), List.length_append, hlen,
      List.length_singleton]
  exact ⟨hchild false, hchild true⟩

/-! The nodes of a tree as finite sets. -/

/-- The leaves. -/
def leafSet (size : Nat) : Finset NodeIx := {i | i.val < size}

/-- The internal nodes. -/
def internalSet (size : Nat) : Finset NodeIx := {i | size ≤ i.val ∧ i.val < 2 * size - 1}

/-- The nodes that have a parent: every node but the root. -/
def childSet (size : Nat) : Finset NodeIx := {i | i.val < 2 * size - 2}

@[simp] theorem mem_leafSet {i : NodeIx} : i ∈ leafSet size ↔ i.val < size := by simp [leafSet]

@[simp] theorem mem_internalSet {i : NodeIx} : i ∈ internalSet size ↔ size ≤ i.val ∧ i.val < 2 * size - 1 := by
  simp [internalSet]

@[simp] theorem mem_childSet {i : NodeIx} : i ∈ childSet size ↔ i.val < 2 * size - 2 := by simp [childSet]

/-- `f` of the two children of an internal node, together. -/
def childSum (node : Table Node) (f : NodeIx → ℚ) (j : NodeIx) : ℚ :=
  match tableGet blankNode node j.val with
  | .leaf _ _ => 0
  | .internal l r _ => f l + f r

theorem childSum_of_internal {f : NodeIx → ℚ} {j l r : NodeIx} {w : Weight}
    (hn : tableGet blankNode node j.val = .internal l r w) : childSum node f j = f l + f r := by
  simp only [childSum, hn]

theorem childOf_iff {i l r : NodeIx} {j : Nat} {w : Weight} (hn : tableGet blankNode node j = .internal l r w) :
    ChildOf node i.val j ↔ i = l ∨ i = r := by
  simp only [ChildOf, hn, Node.internal.injEq]
  constructor
  · rintro ⟨l', r', w', ⟨rfl, rfl, rfl⟩, h⟩
    exact h.imp (fun h => Fin.ext h.symm) fun h => Fin.ext h.symm
  · rintro (rfl | rfl)
    · exact ⟨_, _, _, ⟨rfl, rfl, rfl⟩, .inl rfl⟩
    · exact ⟨_, _, _, ⟨rfl, rfl, rfl⟩, .inr rfl⟩

open Classical in
/-- Every node but the root is a child of exactly one internal node, so the sum over the nodes with a parent is the sum
over the parents of their children. -/
theorem TreeWf.sum_childSet (h : TreeWf size root node) (f : NodeIx → ℚ) :
    ∑ i ∈ childSet size, f i = ∑ j ∈ internalSet size, childSum node f j := by
  have hparent : ∀ i ∈ childSet size,
      f i = ∑ j ∈ internalSet size, if ChildOf node i.val j.val then f i else 0 := by
    intro i hi
    obtain ⟨k, ⟨hge, hlt, hchild⟩, honly⟩ := h.one_parent i.val (mem_childSet.mp hi)
    obtain ⟨k, rfl⟩ : ∃ k' : NodeIx, k'.val = k := ⟨⟨k, by have := h.size_le; omega⟩, rfl⟩
    rw [Finset.sum_eq_single_of_mem k (mem_internalSet.mpr ⟨hge, hlt⟩), if_pos hchild]
    intro j hj hne
    obtain ⟨hgej, hltj⟩ := mem_internalSet.mp hj
    exact if_neg fun hc => hne (Fin.ext (honly j.val ⟨hgej, hltj, hc⟩))
  have hchildren : ∀ j ∈ internalSet size,
      (∑ i ∈ childSet size, if ChildOf node i.val j.val then f i else 0) = childSum node f j := by
    intro j hj
    obtain ⟨hge, hlt⟩ := mem_internalSet.mp hj
    obtain ⟨l, r, w, hn, hl, hr, hne, -⟩ := h.internals j.val hge hlt
    have hpair : (childSet size).filter (fun i => ChildOf node i.val j.val) = {l, r} := by
      ext i
      rw [Finset.mem_filter, mem_childSet, childOf_iff hn, Finset.mem_insert, Finset.mem_singleton]
      refine and_iff_right_of_imp ?_
      rintro (rfl | rfl) <;> omega
    rw [← Finset.sum_filter, hpair, Finset.sum_pair hne, childSum_of_internal hn]
  rw [Finset.sum_congr rfl hparent, Finset.sum_comm, Finset.sum_congr rfl hchildren]

/-- R144, item 3, for the tree itself: the Kraft sum of the depths of the leaves is 1. -/
theorem TreeWf.kraft_leafSet (h : TreeWf size root node) (hsize : 1 ≤ size) (hD : IsDepth size root node D) :
    ∑ i ∈ leafSet size, (1 / 2 : ℚ) ^ D i = 1 := by
  have hroot := h.root_eq
  have hle := h.size_le
  have hhalves : ∀ j ∈ internalSet size, childSum node (fun i => (1 / 2 : ℚ) ^ D i) j = (1 / 2) ^ D j := by
    intro j hj
    obtain ⟨hge, hlt⟩ := mem_internalSet.mp hj
    obtain ⟨l, r, w, hn, -⟩ := h.internals j.val hge hlt
    obtain ⟨hl, hr⟩ := hD.child j l r w hlt hn
    rw [childSum_of_internal hn, hl, hr, pow_succ]
    ring
  have hnodes : ∑ i ∈ childSet size, (1 / 2 : ℚ) ^ D i = ∑ j ∈ internalSet size, (1 / 2 : ℚ) ^ D j := by
    rw [h.sum_childSet, Finset.sum_congr rfl hhalves]
  have hsplit : leafSet size ∪ internalSet size = insert root (childSet size) := by
    ext i
    simp only [Finset.mem_union, Finset.mem_insert, mem_leafSet, mem_internalSet, mem_childSet, Fin.ext_iff]
    omega
  have hdisjoint : Disjoint (leafSet size) (internalSet size) :=
    Finset.disjoint_left.mpr fun i hleaf hint => by
      have := mem_leafSet.mp hleaf
      have := mem_internalSet.mp hint
      omega
  have hall : ∑ i ∈ leafSet size, (1 / 2 : ℚ) ^ D i + ∑ j ∈ internalSet size, (1 / 2 : ℚ) ^ D j =
      1 + ∑ i ∈ childSet size, (1 / 2 : ℚ) ^ D i := by
    rw [← Finset.sum_union hdisjoint, hsplit, Finset.sum_insert (by simp [hroot]), hD.root_eq, pow_zero]
  linarith

/-! The symbols of the leaves. -/

/-- The symbol of a leaf. -/
def leafSym (node : Table Node) (i : NodeIx) : Sym :=
  match tableGet blankNode node i.val with
  | .leaf c _ => c
  | .internal _ _ _ => 0

theorem leafSym_of_leaf {i : NodeIx} {c : Sym} {w : Weight} (hn : tableGet blankNode node i.val = .leaf c w) :
    leafSym node i = c := by
  simp only [leafSym, hn]

/-- The symbols that stand on a leaf. -/
def leafSyms (node : Table Node) (size : Nat) : Finset Sym := (leafSet size).image (leafSym node)

theorem TreeWf.mem_leafSyms_iff (h : TreeWf size root node) {c : Sym} :
    c ∈ leafSyms node size ↔ ∃ (i : NodeIx) (w : Weight), i.val < size ∧ tableGet blankNode node i.val = .leaf c w := by
  simp only [leafSyms, Finset.mem_image, mem_leafSet]
  constructor
  · rintro ⟨i, hi, rfl⟩
    obtain ⟨c, w, hn⟩ := h.leaves i.val hi
    exact ⟨i, w, hi, by rw [leafSym_of_leaf hn, hn]⟩
  · rintro ⟨i, w, hi, hn⟩
    exact ⟨i, hi, leafSym_of_leaf hn⟩

theorem TreeWf.leafSym_injOn (h : TreeWf size root node) : Set.InjOn (leafSym node) (leafSet size) := by
  intro i hi j hj heq
  have hi := mem_leafSet.mp hi
  have hj := mem_leafSet.mp hj
  obtain ⟨c, v, hni⟩ := h.leaves i.val hi
  obtain ⟨d, w, hnj⟩ := h.leaves j.val hj
  rw [leafSym_of_leaf hni, leafSym_of_leaf hnj] at heq
  exact Fin.ext (h.leaf_injective hi hj hni (heq ▸ hnj))

/-- A sum over the symbols of the leaves is one over the leaves. -/
theorem TreeWf.sum_leafSyms {M : Type*} [AddCommMonoid M] (h : TreeWf size root node) (g : Sym → M) :
    ∑ c ∈ leafSyms node size, g c = ∑ i ∈ leafSet size, g (leafSym node i) :=
  Finset.sum_image h.leafSym_injOn

end

end Sys2Proof.Safety

namespace Sys2Proof.Machine

open Sys2Proof.Safety

/-! Sums over the 256 symbols. -/

theorem allSyms_nodup : allSyms.Nodup := allSyms_ascending.imp fun h heq => h.ne (congrArg _ heq)

theorem mem_allSyms (c : Sym) : c ∈ allSyms := by
  simp only [allSyms, List.mem_map, List.mem_range]
  exact ⟨c.toNat, c.isLt, by simp⟩

/-- A sum over the listed symbols that meet a condition, as one over a finite set. -/
theorem sum_filter_allSyms {M : Type*} [AddCommMonoid M] (p : Sym → Prop) [DecidablePred p] (g : Sym → M) :
    ((allSyms.filter (fun c => decide (p c))).map g).sum = ∑ c ∈ {c : Sym | p c}, g c := by
  have hset : (allSyms.filter (fun c => decide (p c))).toFinset = ({c : Sym | p c} : Finset Sym) := by
    ext c
    simp [mem_allSyms]
  rw [← List.sum_toFinset g (allSyms_nodup.filter _), hset]

theorem sum_allSyms {M : Type*} [AddCommMonoid M] (g : Sym → M) : (allSyms.map g).sum = ∑ c : Sym, g c := by
  have hset : allSyms.toFinset = Finset.univ := by
    ext c
    simp [mem_allSyms]
  rw [← List.sum_toFinset g allSyms_nodup, hset]

/-! The code table of a tree of two or more symbols. -/

section
variable {s t : State}

/-- The lengths of the code table are the depths of the leaves. -/
theorem lenAt_of_isPathLength {D : NodeIx → Nat} (h : TreeWf s.treeSize.val s.root s.node) (hsize : 2 ≤ s.treeSize.val)
    (hexec : exec .genc s = .next t) (hD : IsPathLength s.treeSize.val s.root s.node D) {i : NodeIx}
    (hi : i.val < s.treeSize.val) :
    (t.lenAt (leafSym s.node i)).toNat = D i ∧ 1 ≤ D i ∧ D i ≤ 255 := by
  obtain ⟨hpaths, -, -⟩ := gencRecordsPaths s t h hsize hexec
  obtain ⟨p, hp, hlen⟩ := hD i (by omega)
  obtain ⟨c, w, hn⟩ := h.leaves i.val hi
  obtain ⟨hlenAt, -, hpos, -⟩ := hpaths p i c w hp hn
  rw [leafSym_of_leaf hn, ← hlen]
  exact ⟨hlenAt, hpos, by have := (t.lenAt c).isLt; omega⟩

/-- R144, item 1. -/
theorem lenAt_ne_zero_iff (h : TreeWf s.treeSize.val s.root s.node) (hsize : 2 ≤ s.treeSize.val)
    (hexec : exec .genc s = .next t) {c : Sym} : t.lenAt c ≠ 0 ↔ c ∈ leafSyms s.node s.treeSize.val := by
  obtain ⟨hpaths, hreached, habsent⟩ := gencRecordsPaths s t h hsize hexec
  rw [h.mem_leafSyms_iff]
  constructor
  · intro hne
    by_contra! hno
    exact hne (habsent c fun i hi w => hno i w hi).1
  · rintro ⟨i, w, hi, hn⟩ hzero
    obtain ⟨p, hp⟩ := hreached i hi
    obtain ⟨hlen, -, hpos, -⟩ := hpaths p i c w hp hn
    rw [← hlen, hzero] at hpos
    exact absurd hpos (by decide)

/-- A symbol with a codeword has the path to its leaf for it. -/
theorem leadsToLeaf_symBits (h : TreeWf s.treeSize.val s.root s.node) (hsize : 2 ≤ s.treeSize.val)
    (hexec : exec .genc s = .next t) {c : Sym} (hc : t.lenAt c ≠ 0) : LeadsToLeaf s.node s.root (symBits t c) c := by
  obtain ⟨hpaths, hreached, -⟩ := gencRecordsPaths s t h hsize hexec
  obtain ⟨i, w, hi, hn⟩ := h.mem_leafSyms_iff.mp ((lenAt_ne_zero_iff h hsize hexec).mp hc)
  obtain ⟨p, hp⟩ := hreached i hi
  obtain ⟨-, hbits, -⟩ := hpaths p i c w hp hn
  exact ⟨i, w, hbits ▸ hp, hn⟩

/-- A bit string that goes on from a leaf leads nowhere. -/
theorem eq_nil_of_leadsToLeaf_append {node : Table Node} {root : NodeIx} {p q : List Bool} {c d : Sym}
    (hp : LeadsToLeaf node root p c) (hq : LeadsToLeaf node root (p ++ q) d) : q = [] := by
  obtain ⟨i, w, hi, hn⟩ := hp
  obtain ⟨j, v, hj, -⟩ := hq
  rw [pathFrom_append, hi, Option.bind_some] at hj
  cases q with
  | nil => rfl
  | cons b q =>
    rw [pathFrom_cons_of_leaf hn] at hj
    cases hj

theorem eq_of_leadsToLeaf {node : Table Node} {root : NodeIx} {p : List Bool} {c d : Sym}
    (hc : LeadsToLeaf node root p c) (hd : LeadsToLeaf node root p d) : c = d := by
  obtain ⟨i, w, hi, hni⟩ := hc
  obtain ⟨j, v, hj, hnj⟩ := hd
  cases hi.symm.trans hj
  cases hni.symm.trans hnj
  rfl

/-- R144, item 3: the Kraft sum of the code table is 1. -/
theorem kraft_lenAt (h : TreeWf s.treeSize.val s.root s.node) (hsize : 2 ≤ s.treeSize.val)
    (hexec : exec .genc s = .next t) :
    ∑ c ∈ leafSyms s.node s.treeSize.val, (1 / 2 : ℚ) ^ (t.lenAt c).toNat = 1 := by
  obtain ⟨D, hD⟩ := h.exists_isPathLength (by omega)
  have hlen : ∀ i ∈ leafSet s.treeSize.val, (t.lenAt (leafSym s.node i)).toNat = D i := fun i hi =>
    (lenAt_of_isPathLength h hsize hexec hD (mem_leafSet.mp hi)).1
  rw [h.sum_leafSyms, Finset.sum_congr rfl fun i hi => congrArg _ (hlen i hi)]
  exact h.kraft_leafSet (by omega) (hD.isDepth h (by omega))

end

/-- Settles O41: codewords are the paths to different leaves, and the Kraft sum of the leaves' depths is 1. -/
theorem gencMakesFullPrefixCode : Obligations.GencMakesFullPrefixCode := by
  intro s t h hsize hexec
  have hiff (c : Sym) := lenAt_ne_zero_iff h hsize hexec (c := c)
  refine ⟨fun c => (hiff c).trans h.mem_leafSyms_iff, fun c d hne hc hd hextends => ?noExtension, ?kraft⟩
  case noExtension =>
    have hpc := leadsToLeaf_symBits h hsize hexec hc
    have hpd := leadsToLeaf_symBits h hsize hexec hd
    obtain ⟨q, hq⟩ := hextends
    rw [← hq] at hpd
    obtain rfl := eq_nil_of_leadsToLeaf_append hpc hpd
    rw [List.append_nil] at hpd
    exact hne (eq_of_leadsToLeaf hpc hpd)
  case kraft =>
    have hset : ({c : Sym | t.lenAt c ≠ 0} : Finset Sym) = leafSyms s.node s.treeSize.val := by
      ext c
      simpa using hiff c
    have hscale (c : Sym) : ((2 ^ (255 - (t.lenAt c).toNat) : ℕ) : ℚ) = 2 ^ 255 * (1 / 2) ^ (t.lenAt c).toNat := by
      have hle : (t.lenAt c).toNat ≤ 255 := Nat.le_of_lt_succ (t.lenAt c).isLt
      rw [Nat.cast_pow, Nat.cast_ofNat, pow_sub₀ 2 two_ne_zero hle, one_div, inv_pow]
    rw [sum_filter_allSyms, hset]
    have hsum := kraft_lenAt h hsize hexec
    have : ((∑ c ∈ leafSyms s.node s.treeSize.val, 2 ^ (255 - (t.lenAt c).toNat) : ℕ) : ℚ) = (2 ^ 255 : ℕ) := by
      rw [Nat.cast_sum, Finset.sum_congr rfl fun c _ => hscale c, ← Finset.mul_sum, hsum, mul_one, Nat.cast_pow,
        Nat.cast_ofNat]
    exact Nat.cast_injective this

/-- Settles O42: GENC leaves the tree as it is, so the second run makes the table that is there. -/
theorem gencIsIdempotent : Obligations.GencIsIdempotent := by
  intro s t h
  obtain ⟨tab, htab, rfl⟩ := exec_genc_eq_next_iff.mp h
  exact exec_genc_eq_next_iff.mpr ⟨tab, htab, rfl⟩

end Sys2Proof.Machine
end

section
/-! PROOFS. Whole runs of ENC and DEC: ENC of a stream (R166), DEC against the source's loop (R187), and the round trip
(R188). The obligations O46, O53 and O54. -/

namespace Sys2Proof.Machine

open Sys2Proof.Safety

/-! ENC of a whole stream. -/

/-- Settles O46: the start, the symbols, the fetch of END and the close. -/
theorem encBitCountLaw : Obligations.EncBitCountLaw := by
  intro s syms rest hstart hq hlen hroom
  refine ⟨streamBits_length s syms, ?_⟩
  have hsyms := coreRun_enc_of_symbols hstart hq hlen (bitOutRoom_mono hroom (Nat.le_add_right _ 1))
  have hfetch := coreStep_encFetch_of_fin (s := s.encStarted.encoded syms (.fin :: rest)) rfl rfl
  have hend := coreRun_encEnd hfetch rfl (State.bitOutRoom_encoded_iff (s := s.encStarted) (q := rest).mpr hroom)
  rw [Nat.add_assoc, coreRun_add_of_next hsyms, hend]
  simp only [State.encoded, State.encStarted, zero_add]
  rfl

/-! The source's loop and DEC_PTR, one bit at a time (R183, R187). -/

section
variable {node : Table Node} {root p l r : NodeIx} {c : Sym} {v w : Weight} {b : Bool} {bits : List Bool} {k : Nat}

theorem sourceLoop_nil_of_internal (hp : tableGet blankNode node p.val = .internal l r w) (k : Nat) :
    sourceLoop node root k p [] = [] := by
  cases k with
  | zero => rfl
  | succ k => simp only [sourceLoop, hp]

theorem sourceLoop_cons_of_internal (hp : tableGet blankNode node p.val = .internal l r w) :
    sourceLoop node root (k + 1) p (b :: bits) = sourceLoop node root k (if b then r else l) bits := by
  simp only [sourceLoop, hp]

/-- At a leaf the loop emits, with bits left or in its final flush, and goes on from the root. -/
theorem sourceLoop_of_leaf (hp : tableGet blankNode node p.val = .leaf c w)
    (hroot : tableGet blankNode node root.val = .internal l r v) :
    sourceLoop node root (k + 1) p bits = c :: sourceLoop node root k root bits := by
  cases bits with
  | nil =>
    rw [sourceLoop_nil_of_internal hroot]
    simp only [sourceLoop, hp]
  | cons b bits => simp only [sourceLoop, hp]

theorem pointerAfter_cons_to_leaf (hp : tableGet blankNode node p.val = .internal l r w)
    (hchild : tableGet blankNode node (if b then r else l).val = .leaf c v) :
    pointerAfter node root p (b :: bits) = pointerAfter node root root bits := by
  simp only [pointerAfter, hp, hchild]

theorem pointerAfter_cons_to_internal {l' r' : NodeIx} (hp : tableGet blankNode node p.val = .internal l r w)
    (hchild : tableGet blankNode node (if b then r else l).val = .internal l' r' v) :
    pointerAfter node root p (b :: bits) = pointerAfter node root (if b then r else l) bits := by
  simp only [pointerAfter, hp, hchild]

end

/-! The run of DEC over bits (R182 to R184). -/

/-- `s` after DEC has taken and counted `bits`, with `q` left on BIT_IN, has put and counted the symbols `out`, and
stands at `p`. -/
def State.decoded (bits : List Bool) (out : List Sym) (p : NodeIx) (q : List BitToken) (s : State) : State :=
  { s with
    qBitIn := q, rSymOut := s.rSymOut ++ out.map .sym, decPtr := p
    decNbit := s.decNbit + BitVec.ofNat 32 bits.length, decNsym := s.decNsym + BitVec.ofNat 32 out.length }

section
variable {s : State} {b : Bool} {bits : List Bool} {q : List BitToken} {c : Sym} {out : List Sym} {p : NodeIx}
  {w : Weight}

theorem State.decoded_nil (hq : s.qBitIn = q) : s.decoded [] [] s.decPtr q = s := by
  subst hq
  simp [State.decoded]

theorem State.decoded_decoded (as bs : List Bool) (o u : List Sym) (p p' : NodeIx) (q q' : List BitToken) :
    (s.decoded as o p q).decoded bs u p' q' = s.decoded (as ++ bs) (o ++ u) p' q' := by
  simp only [State.decoded, List.length_append, List.map_append, List.append_assoc, word_add_ofNat_add_ofNat]

theorem symOutRoom_mono {m n : Nat} (h : SymOutRoom s n) (hle : m ≤ n) : SymOutRoom s m :=
  fun c hc => (Nat.add_le_add_left hle _).trans (h c hc)

theorem State.symOutRoom_decoded_iff {n : Nat} :
    SymOutRoom (s.decoded bits out p q) n ↔ SymOutRoom s (out.length + n) := by
  simp [SymOutRoom, State.decoded, Nat.add_assoc]

/-- A bit that leads to a leaf, and the emit that follows it. -/
theorem coreRun_decSymbol {t : State} (hfetch : coreStep s = .next t) (hseq : t.seq = .decEmit c)
    (hroom : SymOutRoom t 1) :
    coreRun 2 s = .next { t with rSymOut := t.rSymOut ++ [.sym c], decNsym := t.decNsym + 1, seq := .decFetch } := by
  rw [coreRun_succ_of_next hfetch]
  exact coreRun_succ_of_next (coreStep_decEmit_of_room hseq hroom) 0

/-- The singleton tree: each bit gives the one symbol (R182). -/
theorem coreRun_decSingleton (hseq : s.seq = .decFetch) (hsize : s.treeSize.val = 1)
    (hroot : s.nodeAt s.root = .leaf c w) (hq : s.qBitIn = bits.map .bit ++ q) (hroom : SymOutRoom s bits.length) :
    coreRun (2 * bits.length) s = .next (s.decoded bits (List.replicate bits.length c) s.decPtr q) := by
  induction bits generalizing s with
  | nil => exact congrArg _ (State.decoded_nil hq).symm
  | cons b bits ih =>
    have hfetch := (coreStep_decFetch_of_singleton hseq hsize).trans (decFetchSingleton_of_bit hq hroot)
    have hsym := coreRun_decSymbol hfetch rfl (symOutRoom_mono hroom (by simp))
    have hsym : coreRun 2 s = .next (s.decoded [b] [c] s.decPtr (bits.map .bit ++ q)) :=
      hsym.trans (by rw [← hseq]; rfl)
    have hrest := ih (s := s.decoded [b] [c] s.decPtr (bits.map .bit ++ q)) hseq hsize hroot rfl
      (State.symOutRoom_decoded_iff.mpr (by rwa [List.length_singleton, Nat.add_comm]))
    rw [List.length_cons, Nat.mul_add, Nat.add_comm, coreRun_add_of_next hsym]
    exact hrest.trans (congrArg _ (s.decoded_decoded [b] bits [c] _ _ _ _ q))

/-- DEC is at its fetch on a larger tree, with its pointer at an internal node (R183). -/
structure DecAtFetch (s : State) : Prop where
  seq_eq : s.seq = .decFetch
  two_le : 2 ≤ s.treeSize.val
  tree_wf : TreeWf s.treeSize.val s.root s.node
  ptr_internal : s.decPtr ∈ internalSet s.treeSize.val

theorem root_mem_internalSet (hsize : 2 ≤ s.treeSize.val) (h : TreeWf s.treeSize.val s.root s.node) :
    s.root ∈ internalSet s.treeSize.val := by
  have := h.root_eq
  exact mem_internalSet.mpr (by omega)

/-- A node of the tree that is internal lies above the leaves. -/
theorem mem_internalSet_of_internal {size : Nat} {root i l r : NodeIx} {node : Table Node}
    (h : TreeWf size root node) (hi : i.val < 2 * size - 1) (hn : tableGet blankNode node i.val = .internal l r w) :
    i ∈ internalSet size :=
  mem_internalSet.mpr ⟨(h.internal_cases hi hn).1, hi⟩

theorem exists_internal_of_mem {size : Nat} {root i : NodeIx} {node : Table Node} (h : TreeWf size root node)
    (hi : i ∈ internalSet size) : ∃ l r w, tableGet blankNode node i.val = .internal l r w ∧
      ∀ b : Bool, (if b then r else l).val < 2 * size - 1 := by
  obtain ⟨hge, hlt⟩ := mem_internalSet.mp hi
  obtain ⟨l, r, w, hn, hl, hr, -⟩ := h.internals i.val hge hlt
  exact ⟨l, r, w, hn, fun b => child_lt (hl.trans hlt) (hr.trans hlt) b⟩

/-- A bit that leads to a leaf: two turns, and back to the root. -/
theorem DecAtFetch.coreRun_leaf {l r : NodeIx} {v : Weight} (h : DecAtFetch s) (hq : s.qBitIn = .bit b :: q)
    (hptr : s.nodeAt s.decPtr = .internal l r w) (hchild : s.nodeAt (if b then r else l) = .leaf c v)
    (hroom : SymOutRoom s 1) :
    coreRun 2 s = .next (s.decoded [b] [c] s.root q) ∧ DecAtFetch (s.decoded [b] [c] s.root q) := by
  have hfetch := (coreStep_decFetch_of_two_le h.seq_eq h.two_le).trans (decFetchTree_of_bit_to_leaf hq hptr hchild)
  refine ⟨(coreRun_decSymbol hfetch rfl hroom).trans ?_, h.seq_eq, h.two_le, h.tree_wf,
    root_mem_internalSet h.two_le h.tree_wf⟩
  rw [← h.seq_eq]
  rfl

/-- A bit that leads to an internal node: one turn. -/
theorem DecAtFetch.coreStep_internal {l r l' r' : NodeIx} {v : Weight} (h : DecAtFetch s)
    (hq : s.qBitIn = .bit b :: q) (hptr : s.nodeAt s.decPtr = .internal l r w)
    (hchild : s.nodeAt (if b then r else l) = .internal l' r' v)
    (hlt : (if b then r else l).val < 2 * s.treeSize.val - 1) :
    coreStep s = .next (s.decoded [b] [] (if b then r else l) q) ∧
      DecAtFetch (s.decoded [b] [] (if b then r else l) q) := by
  have hfetch := (coreStep_decFetch_of_two_le h.seq_eq h.two_le).trans
    (decFetchTree_of_bit_to_internal hq hptr hchild)
  refine ⟨hfetch.trans ?_, h.seq_eq, h.two_le, h.tree_wf, mem_internalSet_of_internal h.tree_wf hlt hchild⟩
  simp [State.decoded]

/-- R187: over bits, DEC's fetches and emits are the turns of the source's loop, where the loop has turns left for the
bits. -/
theorem DecAtFetch.coreRun_bits {k : Nat} (h : DecAtFetch s) (hq : s.qBitIn = bits.map .bit ++ q)
    (hk : 2 * bits.length < k) (hroom : SymOutRoom s (sourceLoop s.node s.root k s.decPtr bits).length) :
    coreRun (bits.length + (sourceLoop s.node s.root k s.decPtr bits).length) s =
      .next (s.decoded bits (sourceLoop s.node s.root k s.decPtr bits)
        (pointerAfter s.node s.root s.decPtr bits) q) := by
  induction bits generalizing s k with
  | nil =>
    obtain ⟨l, r, w, hptr, -⟩ := exists_internal_of_mem h.tree_wf h.ptr_internal
    rw [sourceLoop_nil_of_internal hptr]
    exact congrArg _ (State.decoded_nil hq).symm
  | cons b bits ih =>
    obtain ⟨l, r, w, hptr, hlt⟩ := exists_internal_of_mem h.tree_wf h.ptr_internal
    obtain ⟨l₀, r₀, w₀, hroot, -⟩ := exists_internal_of_mem h.tree_wf (root_mem_internalSet h.two_le h.tree_wf)
    obtain ⟨k, rfl⟩ : ∃ k', k = k' + 2 := ⟨k - 2, by rw [List.length_cons] at hk; omega⟩
    have hk : 2 * bits.length < k := by
      rw [List.length_cons] at hk
      omega
    rw [sourceLoop_cons_of_internal hptr] at hroom ⊢
    cases hchild : s.nodeAt (if b then r else l) with
    | leaf c v =>
      rw [sourceLoop_of_leaf hchild hroot] at hroom ⊢
      obtain ⟨hrun, hnext⟩ := h.coreRun_leaf hq hptr hchild (symOutRoom_mono hroom (by simp))
      have hrest := ih hnext rfl hk
        (State.symOutRoom_decoded_iff.mpr (by rwa [List.length_cons, Nat.add_comm] at hroom))
      rw [pointerAfter_cons_to_leaf hptr hchild,
        show (b :: bits).length + (c :: sourceLoop s.node s.root k s.root bits).length =
          2 + (bits.length + (sourceLoop s.node s.root k s.root bits).length) by simp only [List.length_cons]; omega,
        coreRun_add_of_next hrun]
      exact hrest.trans (congrArg _ (s.decoded_decoded [b] bits [c] _ _ _ _ q))
    | internal l' r' v =>
      obtain ⟨hstep, hnext⟩ := h.coreStep_internal hq hptr hchild (hlt b)
      have hrest := ih hnext rfl (hk.trans k.lt_succ_self)
        (State.symOutRoom_decoded_iff.mpr (by rwa [List.length_nil, Nat.zero_add]))
      rw [pointerAfter_cons_to_internal hptr hchild, List.length_cons, Nat.add_right_comm,
        coreRun_succ_of_next hstep]
      exact hrest.trans (congrArg _ (s.decoded_decoded [b] bits [] _ _ _ _ q))

/-- The fetch of END and the close it goes to (R182, R185, R186). -/
theorem coreRun_decEnd {t : State} (hfetch : coreStep s = .next t) (hseq : t.seq = .decClose) (hroom : SymOutRoom t 1) :
    coreRun 2 s = .next { t with rSymOut := t.rSymOut ++ [.fin], errcode := 0, seq := .idle } := by
  rw [coreRun_succ_of_next hfetch]
  exact coreRun_succ_of_next (coreStep_decClose_of_room hseq hroom) 0

theorem State.decStarted_seq_of_present (h : 1 ≤ s.treeSize.val) : s.decStarted.seq = .decFetch :=
  if_neg (by omega)

theorem decAtFetch_decStarted (hsize : 2 ≤ s.treeSize.val) (h : TreeWf s.treeSize.val s.root s.node) :
    DecAtFetch s.decStarted :=
  ⟨State.decStarted_seq_of_present (by omega), hsize, h, root_mem_internalSet hsize h⟩

end

/-- Settles O53: the start, the bits, the fetch of END and the close. -/
theorem decMatchesSourceLoop : Obligations.DecMatchesSourceLoop := by
  intro s bits rest hstart htree hsize hq out p hroom
  have hbits : coreRun (bits.length + out.length) s.decStarted =
      .next (s.decStarted.decoded bits out p (.fin :: rest)) :=
    (decAtFetch_decStarted hsize htree).coreRun_bits hq (Nat.lt_succ_self _)
      (symOutRoom_mono hroom (Nat.le_add_right _ 1))
  have hseq : (s.decStarted.decoded bits out p (.fin :: rest)).seq = .decFetch :=
    State.decStarted_seq_of_present (by omega)
  have hfetch := (coreStep_decFetch_of_two_le hseq hsize).trans (decFetchTree_of_fin rfl)
  have hroomEnd : SymOutRoom (s.decStarted.decoded bits out p rest) 1 := State.symOutRoom_decoded_iff.mpr hroom
  have hend := coreRun_decEnd hfetch rfl hroomEnd
  rw [show 1 + bits.length + out.length + 1 + 1 = bits.length + out.length + 2 + 1 by omega,
    coreRun_succ_of_next (coreStep_of_aboutToRun_dec hstart), coreRun_add_of_next hbits, hend]
  simp only [State.decoded, State.decStarted, zero_add]

/-! The round trip (R188). -/

/-- A DEC from `u` ends with the symbols `syms` and END on SYM_OUT, for the bits `bits` that it counts. -/
def DecodesTo (u : State) (bits : List Bool) (syms : List Sym) (rest : List BitToken) : Prop :=
  ∃ (m : Nat) (t : State), coreRun m u = .next t ∧ t.seq = .idle ∧ t.errcode = 0 ∧ t.decMidpath = false ∧
    t.rSymOut = u.rSymOut ++ syms.map .sym ++ [.fin] ∧ (u.treeSize.val ≠ 0 → t.qBitIn = rest) ∧
    t.decNbit = BitVec.ofNat 32 bits.length ∧ t.decNsym = BitVec.ofNat 32 syms.length

section
variable {u : State} {bits : List Bool} {syms : List Sym} {rest : List BitToken} {c : Sym} {w : Weight}

theorem decodesTo_of_absent (hstart : AboutToRun .dec u) (hsize : u.treeSize.val = 0) (hroom : SymOutRoom u 1) :
    DecodesTo u [] [] rest :=
  ⟨2, _, decOnAbsentTree u hstart hsize hroom, rfl, rfl, rfl, by simp, absurd hsize, rfl, rfl⟩

theorem decodesTo_of_singleton (hstart : AboutToRun .dec u) (hsize : u.treeSize.val = 1)
    (hroot : u.nodeAt u.root = .leaf c w) (hq : u.qBitIn = bits.map .bit ++ .fin :: rest)
    (hroom : SymOutRoom u (bits.length + 1)) : DecodesTo u bits (List.replicate bits.length c) rest := by
  let out := List.replicate bits.length c
  have hseq : u.decStarted.seq = .decFetch := State.decStarted_seq_of_present hsize.ge
  have hbits : coreRun (2 * bits.length) u.decStarted = .next (u.decStarted.decoded bits out u.root (.fin :: rest)) :=
    coreRun_decSingleton hseq hsize hroot hq (symOutRoom_mono hroom (Nat.le_add_right _ 1))
  have hfetch := (coreStep_decFetch_of_singleton (s := u.decStarted.decoded bits out u.root (.fin :: rest)) hseq
    hsize).trans (decFetchSingleton_of_fin rfl)
  have hroomEnd : SymOutRoom (u.decStarted.decoded bits out u.root rest) 1 :=
    State.symOutRoom_decoded_iff.mpr (by rwa [List.length_replicate])
  have hend := coreRun_decEnd hfetch rfl hroomEnd
  have hrun := (coreRun_succ_of_next (coreStep_of_aboutToRun_dec hstart) (2 * bits.length + 2)).trans
    ((coreRun_add_of_next hbits 2).trans hend)
  exact ⟨_, _, hrun, rfl, rfl, rfl, rfl, fun _ => rfl, zero_add _, zero_add _⟩

/-- The path to a leaf makes the source's loop emit its symbol and go back to the root, with turns left for the bits
that follow; DEC_PTR goes back there too. -/
theorem sourceLoop_of_leadsToLeaf {node : Table Node} {root i l r l₀ r₀ : NodeIx} {w₀ : Weight} {p : List Bool}
    {k : Nat} (hroot : tableGet blankNode node root.val = .internal l₀ r₀ w₀)
    (hi : tableGet blankNode node i.val = .internal l r w) (hp : LeadsToLeaf node i p c)
    (hk : 2 * (p ++ bits).length < k) :
    (∃ k', 2 * bits.length < k' ∧ sourceLoop node root k i (p ++ bits) = c :: sourceLoop node root k' root bits) ∧
    pointerAfter node root i (p ++ bits) = pointerAfter node root root bits := by
  induction p generalizing i k l r w with
  | nil => exact absurd hp (not_leadsToLeaf_nil_of_internal hi)
  | cons b p ih =>
    rw [leadsToLeaf_cons_iff hi] at hp
    obtain ⟨k, rfl⟩ : ∃ k', k = k' + 2 := ⟨k - 2, by rw [List.cons_append, List.length_cons] at hk; omega⟩
    have hk : 2 * (p ++ bits).length < k := by
      rw [List.cons_append, List.length_cons] at hk
      omega
    rw [List.cons_append, sourceLoop_cons_of_internal hi]
    cases hchild : tableGet blankNode node (if b then r else l).val with
    | leaf d v =>
      obtain ⟨rfl, rfl⟩ := (leadsToLeaf_iff_of_leaf hchild).mp hp
      rw [List.nil_append] at hk ⊢
      exact ⟨⟨k, hk, sourceLoop_of_leaf hchild hroot⟩, pointerAfter_cons_to_leaf hi hchild⟩
    | internal l' r' v =>
      rw [pointerAfter_cons_to_internal hi hchild]
      exact ih hchild hp (hk.trans k.lt_succ_self)

/-- The paths to leaves, one after the other, make the source's loop emit their symbols. -/
theorem sourceLoop_flatMap {node : Table Node} {root l r : NodeIx} {path : Sym → List Bool} {k : Nat}
    (hroot : tableGet blankNode node root.val = .internal l r w)
    (hpath : ∀ c ∈ syms, LeadsToLeaf node root (path c) c) (hk : 2 * (syms.flatMap path).length < k) :
    sourceLoop node root k root (syms.flatMap path) = syms ∧
    pointerAfter node root root (syms.flatMap path) = root := by
  induction syms generalizing k with
  | nil => exact ⟨sourceLoop_nil_of_internal hroot k, rfl⟩
  | cons c syms ih =>
    obtain ⟨hc, hsyms⟩ := List.forall_mem_cons.mp hpath
    rw [List.flatMap_cons] at hk ⊢
    obtain ⟨⟨k', hk', hloop⟩, hptr⟩ := sourceLoop_of_leadsToLeaf hroot hroot hc hk
    obtain ⟨hrest, hptr'⟩ := ih hsyms hk'
    exact ⟨hloop.trans (congrArg _ hrest), hptr.trans hptr'⟩

theorem decodesTo_of_tree {path : Sym → List Bool} (hstart : AboutToRun .dec u) (hsize : 2 ≤ u.treeSize.val)
    (htree : TreeWf u.treeSize.val u.root u.node) (hpath : ∀ c ∈ syms, LeadsToLeaf u.node u.root (path c) c)
    (hq : u.qBitIn = (syms.flatMap path).map .bit ++ .fin :: rest) (hroom : SymOutRoom u (syms.length + 1)) :
    DecodesTo u (syms.flatMap path) syms rest := by
  obtain ⟨l, r, w, hroot, -⟩ := exists_internal_of_mem htree (root_mem_internalSet hsize htree)
  obtain ⟨hloop, hptr⟩ := sourceLoop_flatMap hroot hpath (Nat.lt_succ_self _)
  have hrun := decMatchesSourceLoop u (syms.flatMap path) rest hstart htree hsize hq
  rw [hloop, hptr] at hrun
  exact ⟨_, _, hrun hroom, rfl, rfl, decide_eq_false (not_not_intro rfl), rfl, fun _ => rfl, rfl, rfl⟩

end

/-! The code table of a state of the invariant, by the form of its tree. -/

section
variable {e : State} {c : Sym}

theorem lenAt_eq_zero_of_absent (h : Inv e) (hvalid : e.codesValid = true) (hsize : e.treeSize.val = 0) (c : Sym) :
    e.lenAt c = 0 := by
  have htab := h.codes_valid hvalid
  rw [hsize, genTable_zero] at htab
  obtain ⟨hlen, -⟩ := CodeTab.mk.inj (Except.ok.inj htab)
  rw [State.lenAt, ← hlen, tableGet_nil]

/-- The one codeword of the singleton tree is "1" (R142). -/
theorem codeword_of_singleton (h : Inv e) (hvalid : e.codesValid = true) (hsize : e.treeSize.val = 1) :
    ∃ d w, e.nodeAt e.root = .leaf d w ∧ ∀ c, e.lenAt c ≠ 0 → c = d ∧ symBits e c = [true] := by
  have htree := h.tree_wf
  have htab := h.codes_valid hvalid
  rw [hsize] at htree htab
  obtain ⟨d, w, hn⟩ := htree.leaves 0 Nat.one_pos
  rw [← show e.root.val = 0 from htree.root_eq] at hn
  rw [genTable_one_of_leaf hn] at htab
  refine ⟨d, w, hn, fun c hc => ?_⟩
  have hentry := CodeTab.entry_put { len := [], code := [] } d c 1 1
  rw [Except.ok.inj htab] at hentry
  by_cases hdc : d = c
  · obtain ⟨hlen, hcode⟩ := Prod.mk.inj (hentry.trans (if_pos hdc))
    refine ⟨hdc.symm, ?_⟩
    rw [symBits, State.lenAt, State.codeAt, hlen, hcode]
    rfl
  · obtain ⟨hlen, -⟩ := Prod.mk.inj (hentry.trans (if_neg hdc))
    exact absurd hlen hc

theorem leadsToLeaf_of_inv (h : Inv e) (hvalid : e.codesValid = true) (hsize : 2 ≤ e.treeSize.val)
    (hc : e.lenAt c ≠ 0) : LeadsToLeaf e.node e.root (symBits e c) c :=
  leadsToLeaf_symBits h.tree_wf hsize (exec_genc_of_genTable rfl (h.codes_valid hvalid)) hc

end

/-- DEC gives back the stream whose codewords ENC puts, on each form of the tree. -/
theorem decodesTo_streamBits {e u : State} {syms : List Sym} {rest : List BitToken} (h : Inv e)
    (hvalid : e.codesValid = true) (hlen : ∀ c ∈ syms, e.lenAt c ≠ 0) (hsame : SameTree e u)
    (hstart : AboutToRun .dec u) (hq : u.qBitIn = (streamBits e syms).map .bit ++ .fin :: rest)
    (hroom : SymOutRoom u (syms.length + 1)) : DecodesTo u (streamBits e syms) syms rest := by
  obtain ⟨hsize, hroot, hnode⟩ := hsame
  obtain hzero | hone | htwo : e.treeSize.val = 0 ∨ e.treeSize.val = 1 ∨ 2 ≤ e.treeSize.val := by omega
  · have hnil : syms = [] :=
      List.eq_nil_iff_forall_not_mem.mpr fun c hc => hlen c hc (lenAt_eq_zero_of_absent h hvalid hzero c)
    subst hnil
    exact decodesTo_of_absent hstart (hsize ▸ hzero) hroom
  · obtain ⟨d, w, hleaf, hcodeword⟩ := codeword_of_singleton h hvalid hone
    have hsyms : syms = List.replicate syms.length d :=
      List.eq_replicate_of_mem fun c hc => (hcodeword c (hlen c hc)).1
    have hbits : (streamBits e syms).length = syms.length := by
      rw [streamBits, List.length_flatMap, List.map_congr_left fun c hc => by rw [(hcodeword c (hlen c hc)).2]]
      simp
    have hleaf : u.nodeAt u.root = .leaf d w := by rw [State.nodeAt_congr hnode, hroot, hleaf]
    have hdec := decodesTo_of_singleton hstart (hsize ▸ hone) hleaf hq (hbits ▸ hroom)
    rwa [hbits, ← hsyms] at hdec
  · refine decodesTo_of_tree (path := symBits e) hstart (hsize ▸ htwo) ?_ (fun c hc => ?_) hq hroom
    · rw [hsize, hroot, hnode]
      exact h.tree_wf
    · rw [hroot, hnode]
      exact leadsToLeaf_of_inv h hvalid htwo (hlen c hc)

/-- Settles O54: ENC's run puts the codewords of the stream (O46) and leaves the tree, and DEC gives the stream back. -/
theorem roundTrip : Obligations.RoundTrip := by
  intro e syms more h hvalid hstart hq hlen hroom
  obtain ⟨-, hrun⟩ := encBitCountLaw e syms more hstart hq hlen hroom
  exact ⟨streamBits e syms, _, _, hrun, rfl, rfl, rfl, fun u rest hsame hdec hbits hsymRoom =>
    decodesTo_streamBits h hvalid hlen hsame hdec hbits hsymRoom⟩

end Sys2Proof.Machine
end

section
/-! PROOFS. The forest of BUILD (R121 to R124, R126): what holds of it before and after every turn of the merge loop,
and the tree it ends in. The obligations O31 and O35. -/

namespace Sys2Proof.Machine

open Sys2Proof.Safety

/-! A turn of the merge loop, by what it does to the arena and the queue. -/

/-- `g` is `f` after a turn that joined `a` and `b` under the new node `k` (R123). -/
structure IsMerge (f g : Forest) (a b k : NodeIx) : Prop where
  left : IsLightest f.node f.queue a
  right : IsLightest f.node (f.queue.erase a) b
  new_val : k.val = f.next
  next_eq : g.next = f.next + 1
  queue_eq : g.queue = (f.queue.erase a).erase b ++ [k]
  node_new : tableGet blankNode g.node k.val = .internal a b (weightAt f.node a + weightAt f.node b)
  node_old : ∀ j, j ≠ k.val → tableGet blankNode g.node j = tableGet blankNode f.node j

theorem Forest.exists_isMerge (sel : Nat → Nat) {f : Forest} (h : 2 ≤ f.queue.length) (hnext : f.next < 511) :
    ∃ a b k, IsMerge f (f.merge sel) a b k := by
  obtain ⟨a, b, ha, hb, hmerge⟩ := Forest.merge_cases sel h
  have hk : (nodeIx f.next).val = f.next := nodeIx_val hnext
  refine ⟨a, b, nodeIx f.next, ha, hb, hk, f.merge_next sel, ?_, ?_, fun j hj => f.merge_node_of_ne sel (hk ▸ hj)⟩
  · rw [hmerge]
  · rw [hmerge, hk, tableGet_set, if_pos rfl]

/-- The weight of the nodes of a queue, each counted exactly. -/
def queueWeight (node : Table Node) (q : Finset NodeIx) : Nat := ∑ i ∈ q, (weightAt node i).toNat

/-- What holds of BUILD's forest before and after each turn, for `n` symbols whose counts sum to `total`: the nodes from
`n` to `next` are internal as R34 has them; the queue holds the nodes without a parent, and every other node has exactly
one; and the queue weighs `total`. -/
structure ForestWf (n total : Nat) (f : Forest) : Prop where
  size_le : n ≤ 256
  le_next : n ≤ f.next
  count : f.next + f.queue.length = 2 * n
  queue_ne_nil : f.queue ≠ []
  nodup : f.queue.Nodup
  queue_lt : ∀ i ∈ f.queue, i.val < f.next
  internals : ∀ j, n ≤ j → j < f.next → ∃ l r w, tableGet blankNode f.node j = .internal l r w ∧
    l.val < j ∧ r.val < j ∧ l ≠ r ∧ w.toNat = (weightAt f.node l).toNat + (weightAt f.node r).toNat ∧
    (weightAt f.node l).toNat ≤ (weightAt f.node r).toNat
  no_parent : ∀ i ∈ f.queue, ∀ j, n ≤ j → j < f.next → ¬ ChildOf f.node i.val j
  one_parent : ∀ i : NodeIx, i.val < f.next → i ∉ f.queue → ∃! j, n ≤ j ∧ j < f.next ∧ ChildOf f.node i.val j
  weight : queueWeight f.node f.queue.toFinset = total

section
variable {n total : Nat} {f g : Forest} {a b k : NodeIx}

theorem ForestWf.next_lt (h : ForestWf n total f) (hq : 2 ≤ f.queue.length) : f.next < 511 := by
  have := h.count
  have := h.size_le
  omega

theorem IsMerge.weightAt_old (h : IsMerge f g a b k) {i : NodeIx} (hi : i.val < f.next) :
    weightAt g.node i = weightAt f.node i := by
  rw [weightAt, h.node_old i.val (by rw [h.new_val]; exact hi.ne), weightAt]

theorem IsMerge.childOf_old_iff (h : IsMerge f g a b k) {i j : Nat} (hj : j < f.next) :
    ChildOf g.node i j ↔ ChildOf f.node i j := by
  rw [ChildOf, h.node_old j (by rw [h.new_val]; exact hj.ne), ChildOf]

theorem IsMerge.childOf_new_iff (h : IsMerge f g a b k) {i : NodeIx} : ChildOf g.node i.val f.next ↔ i = a ∨ i = b :=
  childOf_iff (h.new_val ▸ h.node_new)

theorem IsMerge.left_mem (h : IsMerge f g a b k) : a ∈ f.queue := h.left.1

theorem IsMerge.right_mem (h : IsMerge f g a b k) : b ∈ f.queue := List.mem_of_mem_erase h.right.1

theorem IsMerge.queue_length (h : IsMerge f g a b k) : g.queue.length + 1 = f.queue.length := by
  have ha := List.length_erase_of_mem h.left_mem
  have hb := List.length_erase_of_mem h.right.1
  have := List.length_pos_of_mem h.left_mem
  have := List.length_pos_of_mem h.right.1
  rw [h.queue_eq, List.length_append, List.length_singleton]
  omega

section
variable (hwf : ForestWf n total f) (h : IsMerge f g a b k)
include hwf h

theorem IsMerge.ne : a ≠ b := fun heq => (hwf.nodup.mem_erase_iff.mp h.right.1).1 heq.symm

theorem IsMerge.new_not_mem : k ∉ f.queue := fun hk => absurd (hwf.queue_lt k hk) (by rw [h.new_val]; exact lt_irrefl _)

theorem IsMerge.mem_queue_iff {i : NodeIx} : i ∈ g.queue ↔ (i ≠ a ∧ i ≠ b ∧ i ∈ f.queue) ∨ i = k := by
  rw [h.queue_eq, List.mem_append, List.mem_singleton, (hwf.nodup.erase a).mem_erase_iff, hwf.nodup.mem_erase_iff]
  tauto

/-- The queue as a set. -/
theorem IsMerge.queue_toFinset : g.queue.toFinset = insert k ((f.queue.toFinset.erase a).erase b) := by
  ext i
  rw [List.mem_toFinset, h.mem_queue_iff hwf, Finset.mem_insert, Finset.mem_erase, Finset.mem_erase, List.mem_toFinset]
  tauto

theorem IsMerge.nodup : g.queue.Nodup := by
  rw [h.queue_eq, List.nodup_append_comm, List.singleton_append, List.nodup_cons]
  exact ⟨fun hk => h.new_not_mem hwf (List.mem_of_mem_erase (List.mem_of_mem_erase hk)), (hwf.nodup.erase a).erase b⟩

/-- A sum over a queue is that over the two removed indices and the rest. -/
theorem IsMerge.sum_queue {M : Type*} [AddCommMonoid M] (F : NodeIx → M) :
    ∑ i ∈ f.queue.toFinset, F i = F a + (F b + ∑ i ∈ (f.queue.toFinset.erase a).erase b, F i) := by
  have ha : a ∈ f.queue.toFinset := List.mem_toFinset.mpr h.left_mem
  have hb : b ∈ f.queue.toFinset.erase a :=
    Finset.mem_erase.mpr ⟨(h.ne hwf).symm, List.mem_toFinset.mpr h.right_mem⟩
  rw [Finset.add_sum_erase _ F hb, Finset.add_sum_erase _ F ha]

theorem IsMerge.new_not_mem_rest : k ∉ (f.queue.toFinset.erase a).erase b := fun hk =>
  h.new_not_mem hwf (List.mem_toFinset.mp (Finset.mem_of_mem_erase (Finset.mem_of_mem_erase hk)))

theorem IsMerge.weightAt_rest : ∀ i ∈ (f.queue.toFinset.erase a).erase b, weightAt g.node i = weightAt f.node i :=
  fun i hi => h.weightAt_old (hwf.queue_lt i
    (List.mem_toFinset.mp (Finset.mem_of_mem_erase (Finset.mem_of_mem_erase hi))))

/-- The new node weighs its children's exact sum: the total of the queue fits the width of a weight (R6). -/
theorem IsMerge.weightAt_new (htotal : total < 2 ^ 40) :
    (weightAt g.node k).toNat = (weightAt f.node a).toNat + (weightAt f.node b).toNat := by
  have hsum := hwf.weight
  rw [queueWeight, h.sum_queue hwf] at hsum
  rw [weightAt, h.node_new, Node.weight, BitVec.toNat_add, Nat.mod_eq_of_lt (by omega)]

theorem IsMerge.queueWeight_eq (htotal : total < 2 ^ 40) : queueWeight g.node g.queue.toFinset = total := by
  rw [← hwf.weight, queueWeight, queueWeight, h.sum_queue hwf, h.queue_toFinset hwf,
    Finset.sum_insert (h.new_not_mem_rest hwf), h.weightAt_new hwf htotal,
    Finset.sum_congr rfl fun i hi => congrArg _ (h.weightAt_rest hwf i hi), Nat.add_assoc]

theorem IsMerge.internals (htotal : total < 2 ^ 40) : ∀ j, n ≤ j → j < g.next →
    ∃ l r w, tableGet blankNode g.node j = .internal l r w ∧ l.val < j ∧ r.val < j ∧ l ≠ r ∧
      w.toNat = (weightAt g.node l).toNat + (weightAt g.node r).toNat ∧
      (weightAt g.node l).toNat ≤ (weightAt g.node r).toNat := by
  intro j hge hlt
  rw [h.next_eq] at hlt
  have ha := hwf.queue_lt a h.left_mem
  have hb := hwf.queue_lt b h.right_mem
  obtain hlt | rfl : j < f.next ∨ j = f.next := by omega
  · obtain ⟨l, r, w, hn, hl, hr, hne, hw, hle⟩ := hwf.internals j hge hlt
    refine ⟨l, r, w, ?_, hl, hr, hne, ?_⟩
    · rw [h.node_old j (by rw [h.new_val]; exact hlt.ne), hn]
    · rw [h.weightAt_old (hl.trans hlt), h.weightAt_old (hr.trans hlt)]
      exact ⟨hw, hle⟩
  · refine ⟨a, b, _, h.new_val ▸ h.node_new, ha, hb, h.ne hwf, ?_⟩
    rw [h.weightAt_old ha, h.weightAt_old hb]
    have hw := h.weightAt_new hwf htotal
    rw [weightAt, h.node_new, Node.weight] at hw
    exact ⟨hw, h.left.2 b h.right_mem⟩

/-- The internal nodes that have `i` for a child, with the new one among them. -/
theorem IsMerge.parent_iff {i : NodeIx} {j : Nat} : (n ≤ j ∧ j < g.next ∧ ChildOf g.node i.val j) ↔
    (n ≤ j ∧ j < f.next ∧ ChildOf f.node i.val j) ∨ (j = f.next ∧ (i = a ∨ i = b)) := by
  have hle := hwf.le_next
  rw [h.next_eq]
  obtain hlt | rfl | hgt := lt_trichotomy j f.next
  · rw [h.childOf_old_iff hlt]
    simp [hlt, hlt.ne, Nat.lt_succ_of_lt hlt]
  · simp [h.childOf_new_iff, hle]
  · simp [hgt.not_gt, hgt.ne', Nat.not_lt.mpr (Nat.succ_le_of_lt hgt)]

theorem IsMerge.no_parent : ∀ i ∈ g.queue, ∀ j, n ≤ j → j < g.next → ¬ ChildOf g.node i.val j := by
  intro i hi j hge hlt hchild
  obtain ⟨hge, hlt, hchild⟩ | ⟨-, hab⟩ := (h.parent_iff hwf).mp ⟨hge, hlt, hchild⟩
  · obtain ⟨-, -, hi⟩ | rfl := (h.mem_queue_iff hwf).mp hi
    · exact hwf.no_parent i hi j hge hlt hchild
    · obtain ⟨l, r, w, hn, hl, hr, -⟩ := hwf.internals j hge hlt
      have := h.new_val
      obtain rfl | rfl := (childOf_iff hn).mp hchild <;> omega
  · obtain ⟨hna, hnb, -⟩ | rfl := (h.mem_queue_iff hwf).mp hi
    · exact hab.elim hna hnb
    · obtain rfl | rfl := hab
      · exact h.new_not_mem hwf h.left_mem
      · exact h.new_not_mem hwf h.right_mem

theorem IsMerge.one_parent : ∀ i : NodeIx, i.val < g.next → i ∉ g.queue →
    ∃! j, n ≤ j ∧ j < g.next ∧ ChildOf g.node i.val j := by
  intro i hi hout
  rw [h.next_eq] at hi
  rw [h.mem_queue_iff hwf] at hout
  push Not at hout
  obtain ⟨hrest, hne⟩ := hout
  have hi : i.val < f.next := by
    have := Fin.val_ne_of_ne hne
    rw [h.new_val] at this
    omega
  simp only [h.parent_iff hwf]
  by_cases hab : i = a ∨ i = b
  · refine ⟨f.next, .inr ⟨rfl, hab⟩, fun j hj => ?_⟩
    obtain ⟨hge, hlt, hchild⟩ | ⟨heq, -⟩ := hj
    · refine absurd hchild (hwf.no_parent i ?_ j hge hlt)
      exact hab.elim (fun heq => heq ▸ h.left_mem) fun heq => heq ▸ h.right_mem
    · exact heq
  · rw [not_or] at hab
    simp only [hab.1, hab.2, or_false, and_false]
    exact hwf.one_parent i hi fun hmem => hrest hab.1 hab.2 hmem

/-- A turn of the loop keeps what holds of the forest. -/
theorem ForestWf.of_isMerge (htotal : total < 2 ^ 40) : ForestWf n total g := by
  have hcount := hwf.count
  have hlength := h.queue_length
  refine ⟨hwf.size_le, ?_, ?_, ?_, h.nodup hwf, ?_, h.internals hwf htotal, h.no_parent hwf, h.one_parent hwf,
    h.queueWeight_eq hwf htotal⟩
  · rw [h.next_eq]
    exact Nat.le_succ_of_le hwf.le_next
  · rw [h.next_eq]
    omega
  · rw [h.queue_eq]
    simp
  · intro i hi
    rw [h.next_eq]
    obtain ⟨-, -, hi⟩ | rfl := (h.mem_queue_iff hwf).mp hi
    · exact Nat.lt_succ_of_lt (hwf.queue_lt i hi)
    · rw [h.new_val]
      exact Nat.lt_succ_self _

end

/-- The loop keeps what holds of the forest, and ends with one tree. -/
theorem ForestWf.mergeLoop (sel : Nat → Nat) (htotal : total < 2 ^ 40) {m : Nat} (hm : f.queue.length ≤ m + 1)
    (hwf : ForestWf n total f) :
    ForestWf n total (Forest.mergeLoop sel m f) ∧ (Forest.mergeLoop sel m f).queue.length = 1 := by
  induction m generalizing f with
  | zero => exact ⟨hwf, Nat.le_antisymm hm (List.length_pos_iff.mpr hwf.queue_ne_nil)⟩
  | succ m ih =>
    obtain hq | hq := Nat.lt_or_ge f.queue.length 2
    · rw [Forest.mergeLoop_of_lt_two sel _ hq]
      exact ⟨hwf, Nat.le_antisymm (Nat.le_of_lt_succ hq) (List.length_pos_iff.mpr hwf.queue_ne_nil)⟩
    · obtain ⟨a, b, k, h⟩ := Forest.exists_isMerge sel hq (hwf.next_lt hq)
      have hlength := h.queue_length
      rw [Forest.mergeLoop_succ_of_two_le sel m hq]
      exact ih (by omega) (hwf.of_isMerge h htotal)

end

/-! The forest BUILD starts from (R121, R122). -/

/-- The sum of the counts of a frequency table. -/
def totalCount (freq : Table Word) : Nat := ∑ c : Sym, (tableGet 0 freq c.toNat).toNat

/-- Each of the 256 counts is below 2^32. -/
theorem totalCount_lt (freq : Table Word) : totalCount freq < 2 ^ 40 := by
  rw [totalCount, ← sum_allSyms]
  have hle := List.sum_le_card_nsmul (allSyms.map fun c => (tableGet 0 freq c.toNat).toNat) (2 ^ 32 - 1) (by
    simp only [List.mem_map]
    rintro _ ⟨c, -, rfl⟩
    exact Nat.le_pred_of_lt (tableGet 0 freq c.toNat).isLt)
  rw [List.length_map, show allSyms.length = 256 by simp [allSyms]] at hle
  exact hle.trans_lt (by norm_num)

/-- Symbols without an entry add nothing to a sum weighted by the counts. -/
theorem sum_presentSyms (freq : Table Word) (F : Sym → Nat) :
    ((presentSyms freq).map fun c => (tableGet 0 freq c.toNat).toNat * F c).sum =
      ∑ c : Sym, (tableGet 0 freq c.toNat).toNat * F c := by
  rw [presentSyms, sum_filter_allSyms]
  refine Finset.sum_subset (Finset.subset_univ _) fun c _ hc => ?_
  have hzero : tableGet 0 freq c.toNat = 0 := by simpa using hc
  rw [hzero]
  exact Nat.zero_mul _

section
variable (freq : Table Word) (node : Table Node) (draws : Nat)

theorem mem_seedForest_queue_iff {i : NodeIx} :
    i ∈ (seedForest freq node draws).queue ↔ i.val < (presentSyms freq).length := by
  rw [← List.mem_range, ← seedForest_queue_val freq node draws, List.mem_map]
  exact ⟨fun hi => ⟨i, hi, rfl⟩, fun ⟨j, hj, hval⟩ => Fin.ext hval ▸ hj⟩

theorem seedForest_queue_nodup : (seedForest freq node draws).queue.Nodup :=
  List.Nodup.of_map _ ((seedForest_queue_val freq node draws).symm ▸ List.nodup_range)

theorem seedForest_queue_length : (seedForest freq node draws).queue.length = (presentSyms freq).length := by
  rw [← List.length_map (·.val), seedForest_queue_val, List.length_range]

/-- The leaf seeded for the symbol at position `i`. -/
theorem seedForest_node {i : Nat} (h : i < (presentSyms freq).length) :
    tableGet blankNode (seedForest freq node draws).node i =
      .leaf (presentSyms freq)[i] ((tableGet 0 freq (presentSyms freq)[i].toNat).setWidth 40) := by
  have hseed := seedLeaves_getElem freq (presentSyms freq) 0 node h
  rwa [Nat.zero_add] at hseed

theorem setWidth_count (w : Word) : (w.setWidth 40).toNat = w.toNat := by
  rw [BitVec.toNat_setWidth, Nat.mod_eq_of_lt (w.isLt.trans (by decide))]

/-- A sum over the seeded queue, weighted, as one over the symbols, weighted by their counts. -/
theorem sum_seedForest_queue (F : Sym → Nat) :
    ∑ i ∈ (seedForest freq node draws).queue.toFinset,
      (weightAt (seedForest freq node draws).node i).toNat * F (leafSym (seedForest freq node draws).node i) =
    ∑ c : Sym, (tableGet 0 freq c.toNat).toNat * F c := by
  rw [List.sum_toFinset _ (seedForest_queue_nodup freq node draws), ← sum_presentSyms]
  refine congrArg List.sum (List.ext_getElem (by simp [seedForest_queue_length]) fun i hi hi' => ?_)
  have hn : i < (presentSyms freq).length := by simpa using hi'
  have hval : (nodeIx i).val = i := nodeIx_val (hn.trans_le ((presentSyms_length_le freq).trans (by decide)))
  have hleaf := (congrArg (tableGet blankNode (seedForest freq node draws).node) hval).trans
    (seedForest_node freq node draws hn)
  have hqueue : (seedForest freq node draws).queue[i]'(by simpa using hi) = nodeIx i := by simp [seedForest]
  rw [List.getElem_map, List.getElem_map, hqueue, weightAt, hleaf, leafSym_of_leaf hleaf, Node.weight, setWidth_count]

/-- BUILD starts from a forest of leaves. -/
theorem forestWf_seedForest (hpos : 1 ≤ (presentSyms freq).length) :
    ForestWf (presentSyms freq).length (totalCount freq) (seedForest freq node draws) where
  size_le := presentSyms_length_le freq
  le_next := le_rfl
  count := by
    rw [seedForest_queue_length]
    exact (Nat.two_mul _).symm
  queue_ne_nil := List.ne_nil_of_length_pos (by rwa [seedForest_queue_length])
  nodup := seedForest_queue_nodup freq node draws
  queue_lt := fun _ hi => (mem_seedForest_queue_iff freq node draws).mp hi
  internals := fun _ hge hlt => absurd hge hlt.not_ge
  no_parent := fun _ _ _ hge hlt => absurd hge hlt.not_ge
  one_parent := fun _ hi hout => absurd ((mem_seedForest_queue_iff freq node draws).mpr hi) hout
  weight := by simpa [queueWeight, totalCount] using sum_seedForest_queue freq node draws fun _ => 1

end

/-! The tree BUILD ends in (R124, R126). -/

/-- The forest BUILD ends in. -/
def builtForest (sel : Nat → Nat) (s : State) : Forest :=
  Forest.mergeLoop sel (presentSyms s.freq).length (seedForest s.freq s.node s.draws)

section
variable (sel : Nat → Nat) (s : State)

theorem buildTree_node : (s.buildTree sel).node = (builtForest sel s).node := rfl

theorem builtForest_wf (hpos : 1 ≤ (presentSyms s.freq).length) :
    ForestWf (presentSyms s.freq).length (totalCount s.freq) (builtForest sel s) ∧
      (builtForest sel s).queue = [(s.buildTree sel).root] := by
  obtain ⟨hwf, hlength⟩ := (forestWf_seedForest s.freq s.node s.draws hpos).mergeLoop sel (totalCount_lt s.freq)
    (m := (presentSyms s.freq).length) (by rw [seedForest_queue_length]; exact Nat.le_succ _)
  obtain ⟨r, hr⟩ := List.length_eq_one_iff.mp hlength
  refine ⟨hwf, ?_⟩
  have hroot : (s.buildTree sel).root = (builtForest sel s).queue.headD 0 := rfl
  rw [hroot, show (builtForest sel s).queue = [r] from hr]
  rfl

/-- Every node but the last has a parent above it, so the last node is the one left in the queue. -/
theorem ForestWf.root_val {n total : Nat} {f : Forest} {r : NodeIx} (h : ForestWf n total f) (hq : f.queue = [r]) :
    r.val = 2 * n - 2 := by
  have hcount := h.count
  have hsize := h.size_le
  have hge := h.le_next
  rw [hq, List.length_singleton] at hcount
  have hlast : (nodeIx (2 * n - 2)).val = 2 * n - 2 := nodeIx_val (by omega)
  by_contra hne
  have hout : nodeIx (2 * n - 2) ∉ f.queue := by
    rw [hq, List.mem_singleton]
    exact fun heq => hne (heq ▸ hlast)
  obtain ⟨j, ⟨hgej, hltj, hchild⟩, -⟩ := h.one_parent (nodeIx (2 * n - 2)) (by omega) hout
  obtain ⟨l, r', w, hn, hl, hr, -⟩ := h.internals j hgej hltj
  obtain heq | heq := (childOf_iff hn).mp hchild <;> have := congrArg Fin.val heq <;> omega

/-- A forest of one tree, with its leaves in ascending symbol order, is a tree of R34. -/
theorem ForestWf.treeWf {n total : Nat} {f : Forest} {r : NodeIx} (h : ForestWf n total f) (hq : f.queue = [r])
    (hleaves : ∀ i < n, ∃ c w, tableGet blankNode f.node i = .leaf c w)
    (hascending : ∀ i j c d v w, i < j → j < n → tableGet blankNode f.node i = .leaf c v →
      tableGet blankNode f.node j = .leaf d w → c.toNat < d.toNat) : TreeWf n r f.node := by
  have hcount := h.count
  have hsize := h.size_le
  rw [hq, List.length_singleton] at hcount
  have hnext : f.next = 2 * n - 1 := by omega
  refine ⟨hsize, h.root_val hq, hleaves, hascending, hnext ▸ h.internals, fun i hi => ?_⟩
  obtain ⟨i, rfl⟩ : ∃ i' : NodeIx, i'.val = i := ⟨⟨i, by omega⟩, rfl⟩
  rw [← hnext]
  refine h.one_parent i (by omega) ?_
  rw [hq, List.mem_singleton]
  rintro rfl
  exact hi.ne (h.root_val hq)

theorem buildTree_node_leaf {i : Nat} (h : i < (presentSyms s.freq).length) :
    tableGet blankNode (s.buildTree sel).node i =
      .leaf (presentSyms s.freq)[i] ((s.freqAt (presentSyms s.freq)[i]).setWidth 40) := by
  have hlt : i < 511 := h.trans_le ((presentSyms_length_le s.freq).trans (by decide))
  exact s.buildTree_nodeAt_leaf sel ⟨i, hlt⟩ h

theorem treeWf_absent (root : NodeIx) (node : Table Node) (hroot : root.val = 0) : TreeWf 0 root node where
  size_le := by omega
  root_eq := hroot
  leaves := fun _ hi => absurd hi (Nat.not_lt_zero _)
  ascending := fun _ _ _ _ _ _ _ hj => absurd hj (Nat.not_lt_zero _)
  internals := fun _ _ hj => absurd hj (Nat.not_lt_zero _)
  one_parent := fun _ hi => absurd hi (Nat.not_lt_zero _)

/-- Under every oracle BUILD leaves a tree of R34, the absent one among them. -/
theorem buildTree_treeWf : TreeWf (s.buildTree sel).treeSize.val (s.buildTree sel).root (s.buildTree sel).node := by
  rw [s.buildTree_treeSize_val]
  obtain hzero | hpos := Nat.eq_zero_or_pos (presentSyms s.freq).length
  · obtain ⟨-, hroot, -⟩ := s.buildTree_of_lt_two sel (by omega)
    rw [hzero]
    exact treeWf_absent _ _ hroot
  obtain ⟨hwf, hqueue⟩ := builtForest_wf sel s hpos
  refine hwf.treeWf hqueue (fun i hi => ⟨_, _, buildTree_node_leaf sel s hi⟩) fun i j c d v w hij hj hi' hj' => ?_
  rw [← buildTree_node, buildTree_node_leaf sel s (hij.trans hj)] at hi'
  rw [← buildTree_node, buildTree_node_leaf sel s hj] at hj'
  cases hi'
  cases hj'
  exact List.pairwise_iff_getElem.mp (presentSyms_ascending s.freq) i j _ _ hij

theorem buildTree_root_weight (hpos : 1 ≤ (presentSyms s.freq).length) :
    ((s.buildTree sel).nodeAt (s.buildTree sel).root).weight.toNat = totalCount s.freq := by
  obtain ⟨hwf, hqueue⟩ := builtForest_wf sel s hpos
  rw [← hwf.weight, hqueue, queueWeight, List.toFinset_cons, List.toFinset_nil, insert_empty_eq,
    Finset.sum_singleton]
  rfl

end

/-- Settles O31: the merge loop keeps the forest well-formed until one tree is left; its leaves are the seeded ones. -/
theorem buildMakesHuffmanTree : Obligations.BuildMakesHuffmanTree := by
  rintro sel s ⟨c₀, hc₀⟩
  have hmem (c : Sym) : c ∈ presentSyms s.freq ↔ s.freqAt c ≠ 0 := mem_presentSyms_iff s.freq c
  have hpos : 1 ≤ (presentSyms s.freq).length := List.length_pos_of_mem ((hmem c₀).mpr hc₀)
  have hsize := s.buildTree_treeSize_val sel
  refine ⟨buildTree_treeWf sel s, fun c hc => ?onLeaf, fun i hi => ?leaf, ?weight, rfl⟩
  case onLeaf =>
    obtain ⟨i, hi, rfl⟩ := List.mem_iff_getElem.mp ((hmem c).mpr hc)
    have hlt : i < 511 := hi.trans_le ((presentSyms_length_le s.freq).trans (by decide))
    exact ⟨⟨i, hlt⟩, hsize ▸ hi, s.buildTree_nodeAt_leaf sel ⟨i, hlt⟩ hi⟩
  case leaf =>
    rw [hsize] at hi
    exact ⟨_, (hmem _).mp (List.getElem_mem hi), s.buildTree_nodeAt_leaf sel i hi⟩
  case weight =>
    rw [buildTree_root_weight sel s hpos, sum_allSyms]
    rfl

/-! Two symbols of equal count (R128). -/

section
variable {s : State} {c d : Sym}

theorem presentSyms_eq_pair (hcd : c.toNat < d.toNat) (hc : s.freqAt c ≠ 0) (hd : s.freqAt d ≠ 0)
    (hothers : ∀ b, b ≠ c → b ≠ d → s.freqAt b = 0) : presentSyms s.freq = [c, d] := by
  have hne : c ≠ d := fun heq => hcd.ne (congrArg _ heq)
  refine List.Perm.eq_of_pairwise (fun a b _ _ hab hba => absurd hab hba.not_gt) (presentSyms_ascending s.freq)
    (List.pairwise_pair.mpr hcd) ((List.perm_ext_iff_of_nodup (presentSyms_nodup s.freq) (by simp [hne])).mpr
    fun b => ?_)
  rw [mem_presentSyms_iff, List.mem_pair]
  constructor
  · intro hb
    by_contra! hno
    exact hb (hothers b hno.1 hno.2)
  · rintro (rfl | rfl)
    · exact hc
    · exact hd

/-- Of a queue of two, a turn leaves one tree: its left child is the index drawn first, its right child the other. -/
theorem Forest.merge_of_pair {sel : Nat → Nat} {f : Forest} {a b : NodeIx} (ha : (f.dequeue sel).1 = a)
    (hrest : f.queue.erase a = [b]) :
    f.merge sel =
      { node := tableSet blankNode f.node f.next (.internal a b (weightAt f.node a + weightAt f.node b))
        next := f.next + 1
        queue := [nodeIx f.next]
        draws := f.draws + 2 } := by
  have hqueue : (f.dequeue sel).2.queue = [b] := by rw [f.dequeue_snd, ha, hrest]
  have hb := ((f.dequeue sel).2.dequeue_isLightest sel (by simp [hqueue])).1
  rw [hqueue, List.mem_singleton] at hb
  rw [f.merge_eq sel ha hb, hrest, List.erase_cons_head, List.nil_append]

/-- Either index can be drawn first where both weigh the same. -/
theorem exists_buildTree_pair {w : Weight} {a b : NodeIx} (hsyms : presentSyms s.freq = [c, d])
    (hrest : (seedForest s.freq s.node s.draws).queue.erase a = [b])
    (hqueue : ∀ i, i ∈ (seedForest s.freq s.node s.draws).queue ↔ i = a ∨ i = b)
    (hweight : ∀ i ∈ (seedForest s.freq s.node s.draws).queue, weightAt (seedForest s.freq s.node s.draws).node i = w) :
    ∃ sel, (s.buildTree sel).root.val = 2 ∧ (s.buildTree sel).nodeAt 2 = .internal a b (w + w) := by
  have ha := hweight a ((hqueue a).mpr (.inl rfl))
  have hb := hweight b ((hqueue b).mpr (.inr rfl))
  obtain ⟨sel, hsel⟩ := Forest.exists_dequeue_eq (f := seedForest s.freq s.node s.draws) (a := a)
    ⟨(hqueue a).mpr (.inl rfl), fun i hi => by rw [ha, hweight i hi]; exact BitVec.le_refl w⟩
  have hmerge := Forest.merge_of_pair hsel hrest
  have hnext : (seedForest s.freq s.node s.draws).next = 2 := congrArg List.length hsyms
  rw [ha, hb, hnext] at hmerge
  have hbuilt : builtForest sel s = (seedForest s.freq s.node s.draws).merge sel := by
    rw [builtForest, hsyms, List.length_cons, Forest.mergeLoop_succ_of_two_le sel _
      (by rw [seedForest_queue_length, hsyms]; rfl), Forest.mergeLoop_of_lt_two sel _ (by rw [hmerge]; simp)]
  have hroot : (s.buildTree sel).root = (builtForest sel s).queue.headD 0 := rfl
  refine ⟨sel, ?_, ?_⟩
  · rw [hroot, hbuilt, hmerge]
    rfl
  · rw [State.nodeAt, buildTree_node, hbuilt, hmerge]
    simp

end

/-- Settles O35: both leaves are lightest, so each can be the first that is drawn. -/
theorem equalPairAdmitsBothTrees : Obligations.EqualPairAdmitsBothTrees := by
  intro s c d hcd hc hdc hothers w
  have hsyms := presentSyms_eq_pair hcd hc (hdc ▸ hc) hothers
  have hqueue : (seedForest s.freq s.node s.draws).queue = [0, 1] := by
    rw [seedForest, hsyms]
    rfl
  have hzero := seedForest_node s.freq s.node s.draws (i := 0) (by simp [hsyms])
  have hone := seedForest_node s.freq s.node s.draws (i := 1) (by simp [hsyms])
  simp only [hsyms] at hzero hone
  have hweight : ∀ i ∈ (seedForest s.freq s.node s.draws).queue,
      weightAt (seedForest s.freq s.node s.draws).node i = (s.freqAt c).setWidth 40 := by
    rw [hqueue]
    intro i hi
    obtain rfl | rfl := List.mem_pair.mp hi
    · exact congrArg Node.weight hzero
    · exact (congrArg Node.weight hone).trans (congrArg (BitVec.setWidth 40) hdc)
  refine ⟨exists_buildTree_pair hsyms (by rw [hqueue]; rfl) (fun i => ?_) hweight,
    exists_buildTree_pair hsyms (by rw [hqueue]; rfl) (fun i => ?_) hweight⟩
  · rw [hqueue, List.mem_pair]
  · rw [hqueue, List.mem_pair, or_comm]

end Sys2Proof.Machine
end

section
/-! PROOFS. The optimality of BUILD's tree (R127): an exchange argument on lengths that satisfy the Kraft inequality,
and the merge loop read backwards, from the one tree it ends in to the leaves it starts from. The obligations O37 and
O36. -/

namespace Sys2Proof.Safety

open Sys2Proof.Machine

/-! Lengths that satisfy the Kraft inequality. -/

/-- The Kraft sum of the lengths of a set. -/
def kraftSum {α : Type*} (S : Finset α) (len : α → ℕ) : ℚ := ∑ i ∈ S, (1 / 2 : ℚ) ^ len i

/-- The weighted sum of the lengths of a set. -/
def cost {α : Type*} (S : Finset α) (w len : α → ℕ) : ℕ := ∑ i ∈ S, w i * len i

section
variable {α : Type*} {S : Finset α} {w len : α → ℕ} {a b k : α}

theorem kraftSum_congr {len' : α → ℕ} (h : ∀ i ∈ S, len' i = len i) : kraftSum S len' = kraftSum S len :=
  Finset.sum_congr rfl fun i hi => by rw [h i hi]

theorem cost_congr {w' len' : α → ℕ} (hw : ∀ i ∈ S, w' i = w i) (hlen : ∀ i ∈ S, len' i = len i) :
    cost S w' len' = cost S w len :=
  Finset.sum_congr rfl fun i hi => by rw [hw i hi, hlen i hi]

theorem kraftSum_nonneg (S : Finset α) (len : α → ℕ) : 0 ≤ kraftSum S len :=
  Finset.sum_nonneg fun _ _ => by positivity

/-- A Kraft sum below 1 of lengths up to `m` is a multiple of 2^(-m), so it leaves room for one more length `m`. -/
theorem kraftSum_add_le_one {m : ℕ} (hm : ∀ i ∈ S, len i ≤ m) (h : kraftSum S len < 1) :
    kraftSum S len + (1 / 2) ^ m ≤ 1 := by
  have hscale : kraftSum S len * 2 ^ m = (∑ i ∈ S, 2 ^ (m - len i) : ℕ) := by
    rw [kraftSum, Finset.sum_mul, Nat.cast_sum]
    refine Finset.sum_congr rfl fun i hi => ?_
    rw [Nat.cast_pow, Nat.cast_ofNat, pow_sub₀ 2 two_ne_zero (hm i hi), one_div, inv_pow, mul_comm]
  have hpow : (0 : ℚ) < 2 ^ m := by positivity
  have hlt : ∑ i ∈ S, 2 ^ (m - len i) < 2 ^ m := by
    have := (mul_lt_mul_iff_left₀ hpow).mpr h
    rw [hscale, one_mul] at this
    exact_mod_cast this
  have hle : kraftSum S len * 2 ^ m + 1 ≤ 2 ^ m := by
    rw [hscale]
    exact_mod_cast hlt
  have hunit : (1 / 2 : ℚ) ^ m * 2 ^ m = 1 := by rw [← mul_pow]; norm_num
  refine le_of_mul_le_mul_right ?_ hpow
  rw [add_mul, hunit, one_mul]
  exact hle

section
variable [DecidableEq α]

theorem kraftSum_erase (ha : a ∈ S) : kraftSum S len = (1 / 2) ^ len a + kraftSum (S.erase a) len :=
  (Finset.add_sum_erase S _ ha).symm

theorem cost_erase (ha : a ∈ S) : cost S w len = w a * len a + cost (S.erase a) w len :=
  (Finset.add_sum_erase S _ ha).symm

theorem kraftSum_insert (hk : k ∉ S) : kraftSum (insert k S) len = (1 / 2) ^ len k + kraftSum S len :=
  Finset.sum_insert hk

theorem cost_insert (hk : k ∉ S) : cost (insert k S) w len = w k * len k + cost S w len :=
  Finset.sum_insert hk

/-- To give a lightest element the greatest length, exchanged with the element that had it, costs nothing. -/
theorem exists_longest_at (ha : a ∈ S) (hmin : ∀ i ∈ S, w a ≤ w i) (len : α → ℕ) :
    ∃ len' : α → ℕ, (∀ i ∈ S, len' i ≤ len' a) ∧ (∀ i ∈ S, ∃ j ∈ S, len' i = len j) ∧
      kraftSum S len' = kraftSum S len ∧ cost S w len' ≤ cost S w len := by
  obtain ⟨x, hx, hmax⟩ := Finset.exists_max_image S len ⟨a, ha⟩
  have hswap (i : α) (hi : i ∈ S) : Equiv.swap a x i ∈ S := by
    obtain rfl | hia := eq_or_ne i a
    · rwa [Equiv.swap_apply_left]
    obtain rfl | hix := eq_or_ne i x
    · rwa [Equiv.swap_apply_right]
    · rwa [Equiv.swap_apply_of_ne_of_ne hia hix]
  have hmoved : {i | Equiv.swap a x i ≠ i} ⊆ (S : Set α) := by
    intro i hi
    by_contra hout
    refine hi (Equiv.swap_apply_of_ne_of_ne ?_ ?_) <;> rintro rfl <;> exact hout ‹_›
  refine ⟨fun i => len (Equiv.swap a x i), fun i hi => ?longest, fun i hi => ⟨_, hswap i hi, rfl⟩, ?kraft, ?cost⟩
  case longest =>
    beta_reduce
    rw [Equiv.swap_apply_left]
    exact hmax _ (hswap i hi)
  case kraft => exact Equiv.Perm.sum_comp (Equiv.swap a x) S (fun i => (1 / 2 : ℚ) ^ len i) hmoved
  case cost =>
    obtain rfl | hne := eq_or_ne x a
    · simp
    · have hxa : x ∈ S.erase a := Finset.mem_erase.mpr ⟨hne, hx⟩
      have hrest : cost ((S.erase a).erase x) w (fun i => len (Equiv.swap a x i)) =
          cost ((S.erase a).erase x) w len := by
        refine cost_congr (fun _ _ => rfl) fun i hi => ?_
        obtain ⟨hix, hi⟩ := Finset.mem_erase.mp hi
        rw [Equiv.swap_apply_of_ne_of_ne (Finset.ne_of_mem_erase hi) hix]
      have hexchange := mul_add_mul_le_mul_add_mul (hmin x hx) (hmax a ha)
      rw [cost_erase ha, cost_erase hxa, cost_erase ha, cost_erase hxa, hrest, Equiv.swap_apply_left,
        Equiv.swap_apply_right]
      omega

/-- Lengths for a queue give lengths for the queue after a turn of the merge loop, with the new node `k` in the place of
the two lightest, `a` and `b`: they satisfy the Kraft inequality, and cost less by the weight of `k`. -/
theorem exists_merged_lengths (ha : a ∈ S) (hb : b ∈ S.erase a) (hmina : ∀ i ∈ S, w a ≤ w i)
    (hminb : ∀ i ∈ S.erase a, w b ≤ w i) (hk : k ∉ S) (h : kraftSum S len ≤ 1) :
    ∃ len' : α → ℕ, kraftSum (insert k ((S.erase a).erase b)) len' ≤ 1 ∧
      cost ((S.erase a).erase b) w len' + (w a + w b) * (len' k + 1) ≤ cost S w len := by
  obtain ⟨len₁, hlongest₁, -, hkraft₁, hcost₁⟩ := exists_longest_at ha hmina len
  obtain ⟨len₂, hlongest₂, hvalues, hkraft₂, hcost₂⟩ := exists_longest_at hb hminb len₁
  have hkrest : k ∉ (S.erase a).erase b := fun hmem => hk (Finset.mem_of_mem_erase (Finset.mem_of_mem_erase hmem))
  have hle : len₂ b ≤ len₁ a := by
    obtain ⟨j, hj, heq⟩ := hvalues b hb
    exact heq ▸ hlongest₁ j (Finset.mem_of_mem_erase hj)
  have hroom : kraftSum ((S.erase a).erase b) len₂ + 2 * (1 / 2) ^ len₂ b ≤ 1 := by
    have hpos : (0 : ℚ) < (1 / 2) ^ len₁ a := by positivity
    have hsum := kraftSum_add_le_one hlongest₂ (by
      rw [← hkraft₁, kraftSum_erase ha] at h
      linarith)
    rw [kraftSum_erase hb] at hsum
    linarith
  obtain ⟨m, hm⟩ : ∃ m, len₂ b = m + 1 := by
    refine Nat.exists_eq_succ_of_ne_zero fun hzero => ?_
    have := kraftSum_nonneg ((S.erase a).erase b) len₂
    rw [hzero, pow_zero] at hroom
    linarith
  have hupdate : ∀ i ∈ (S.erase a).erase b, Function.update len₂ k m i = len₂ i := fun i hi =>
    Function.update_of_ne (fun heq : i = k => hkrest (heq ▸ hi)) m len₂
  refine ⟨Function.update len₂ k m, ?kraft, ?cost⟩
  case kraft =>
    rw [kraftSum_insert hkrest, kraftSum_congr hupdate, Function.update_self]
    rw [hm, pow_succ] at hroom
    linarith
  case cost =>
    rw [cost_congr (fun _ _ => rfl) hupdate, Function.update_self, ← hm]
    rw [cost_erase ha] at hcost₁
    rw [cost_erase hb] at hcost₂
    have := Nat.mul_le_mul_left (w a) hle
    rw [Nat.add_mul]
    omega

end

end

/-! The merge loop, read backwards (R123, R127). -/

section
variable {n total : Nat} {f g : Forest} {a b k : NodeIx} {D : NodeIx → Nat}

/-- The lengths `D` cost no more on the queue of `f` than any that satisfy the Kraft inequality there. -/
def IsOptimalOn (f : Forest) (D : NodeIx → Nat) : Prop :=
  ∀ len : NodeIx → ℕ, kraftSum f.queue.toFinset len ≤ 1 →
    cost f.queue.toFinset (fun i => (weightAt f.node i).toNat) D ≤
      cost f.queue.toFinset (fun i => (weightAt f.node i).toNat) len

/-- Depths that are optimal after a turn of the merge loop are optimal before it. -/
theorem IsOptimalOn.of_isMerge (hwf : ForestWf n total f) (h : IsMerge f g a b k) (htotal : total < 2 ^ 40)
    (ha : D a = D k + 1) (hb : D b = D k + 1) (hopt : IsOptimalOn g D) : IsOptimalOn f D := by
  intro len hkraft
  have hmem (i : NodeIx) : i ∈ f.queue.toFinset ↔ i ∈ f.queue := List.mem_toFinset
  have haS : a ∈ f.queue.toFinset := (hmem a).mpr h.left_mem
  have hbS : b ∈ f.queue.toFinset.erase a := Finset.mem_erase.mpr ⟨(h.ne hwf).symm, (hmem b).mpr h.right_mem⟩
  have herase (i : NodeIx) (hi : i ∈ f.queue.toFinset.erase a) : i ∈ f.queue.erase a := by
    obtain ⟨hne, hi⟩ := Finset.mem_erase.mp hi
    exact hwf.nodup.mem_erase_iff.mpr ⟨hne, (hmem i).mp hi⟩
  obtain ⟨len', hkraft', hcost⟩ := exists_merged_lengths (w := fun i => (weightAt f.node i).toNat) haS hbS
    (fun i hi => h.left.2 i ((hmem i).mp hi)) (fun i hi => h.right.2 i (herase i hi))
    (fun hk => h.new_not_mem hwf ((hmem k).mp hk)) hkraft
  rw [← h.queue_toFinset hwf] at hkraft'
  have hafter := hopt len' hkraft'
  have hweights : ∀ i ∈ (f.queue.toFinset.erase a).erase b,
      (weightAt g.node i).toNat = (weightAt f.node i).toNat := fun i hi => by rw [h.weightAt_rest hwf i hi]
  rw [h.queue_toFinset hwf, cost_insert (h.new_not_mem_rest hwf), cost_insert (h.new_not_mem_rest hwf),
    cost_congr hweights fun _ _ => rfl, cost_congr hweights fun _ _ => rfl, h.weightAt_new hwf htotal] at hafter
  rw [cost_erase haS, cost_erase hbS, ha, hb]
  refine le_trans ?_ hcost
  rw [Nat.mul_add, Nat.mul_add, Nat.mul_add]
  rw [Nat.add_mul, Nat.add_mul] at hafter
  rw [Nat.add_mul]
  omega

theorem isOptimalOn_of_zero (hroot : ∀ i ∈ f.queue, D i = 0) : IsOptimalOn f D := by
  intro len _
  have hzero : cost f.queue.toFinset (fun i => (weightAt f.node i).toNat) D = 0 :=
    Finset.sum_eq_zero fun i hi => by rw [hroot i (List.mem_toFinset.mp hi), Nat.mul_zero]
  rw [hzero]
  exact Nat.zero_le _

/-- The depths in the tree the loop ends in are optimal on the queue it starts from. -/
theorem isOptimalOn_of_mergeLoop (sel : Nat → Nat) (htotal : total < 2 ^ 40) {m : Nat} (hm : f.queue.length ≤ m + 1)
    (hwf : ForestWf n total f) (hroot : ∀ i ∈ (Forest.mergeLoop sel m f).queue, D i = 0)
    (hchild : ∀ (j l r : NodeIx) (w : Weight), j.val < 2 * n - 1 →
      tableGet blankNode (Forest.mergeLoop sel m f).node j.val = .internal l r w → D l = D j + 1 ∧ D r = D j + 1) :
    IsOptimalOn f D := by
  induction m generalizing f with
  | zero => exact isOptimalOn_of_zero hroot
  | succ m ih =>
    obtain hq | hq := Nat.lt_or_ge f.queue.length 2
    · rw [Forest.mergeLoop_of_lt_two sel _ hq] at hroot
      exact isOptimalOn_of_zero hroot
    · obtain ⟨a, b, k, h⟩ := Forest.exists_isMerge sel hq (hwf.next_lt hq)
      have hlength := h.queue_length
      have hcount := hwf.count
      rw [Forest.mergeLoop_succ_of_two_le sel m hq] at hroot hchild
      have hnew : tableGet blankNode (Forest.mergeLoop sel m (f.merge sel)).node k.val = _ :=
        (Forest.mergeLoop_node_of_lt sel m (f.merge sel) (by rw [h.new_val, h.next_eq]; omega)).trans h.node_new
      obtain ⟨ha, hb⟩ := hchild k a b _ (by rw [h.new_val]; omega) hnew
      exact (ih (by omega) (hwf.of_isMerge h htotal) hroot hchild).of_isMerge hwf h htotal ha hb

end

end Sys2Proof.Safety

namespace Sys2Proof.Machine

open Sys2Proof.Safety

section
variable (sel : Nat → Nat) {s t : State} {D : NodeIx → Nat}

/-- The leaves of BUILD's tree stand where the forest it starts from has them. -/
theorem leafSym_buildTree {i : NodeIx} (hi : i.val < (presentSyms s.freq).length) :
    leafSym (s.buildTree sel).node i = leafSym (seedForest s.freq s.node s.draws).node i := by
  rw [leafSym_of_leaf (buildTree_node_leaf sel s hi), leafSym_of_leaf (seedForest_node s.freq s.node s.draws hi)]

theorem seedForest_queue_toFinset (freq : Table Word) (node : Table Node) (draws : Nat) :
    (seedForest freq node draws).queue.toFinset = leafSet (presentSyms freq).length := by
  ext i
  rw [List.mem_toFinset, mem_seedForest_queue_iff, mem_leafSet]

/-- The symbols on BUILD's leaves are those with an entry in FREQ. -/
theorem leafSyms_buildTree : leafSyms (s.buildTree sel).node (presentSyms s.freq).length =
    ({c : Sym | s.freqAt c ≠ 0} : Finset Sym) := by
  have htree := buildTree_treeWf sel s
  rw [s.buildTree_treeSize_val] at htree
  ext c
  rw [htree.mem_leafSyms_iff, Finset.mem_filter_univ]
  refine (Iff.symm ?_).trans (mem_presentSyms_iff s.freq c)
  constructor
  · intro hc
    obtain ⟨i, hi, rfl⟩ := List.mem_iff_getElem.mp hc
    exact ⟨⟨i, hi.trans_le ((presentSyms_length_le s.freq).trans (by decide))⟩, _, hi, buildTree_node_leaf sel s hi⟩
  · rintro ⟨i, w, hi, hn⟩
    rw [buildTree_node_leaf sel s hi] at hn
    cases hn
    exact List.getElem_mem hi

/-- The depths of BUILD's leaves are optimal for the counts of their symbols. -/
theorem isOptimalOn_seedForest (hpos : 1 ≤ (presentSyms s.freq).length)
    (hD : IsDepth (presentSyms s.freq).length (s.buildTree sel).root (s.buildTree sel).node D) :
    IsOptimalOn (seedForest s.freq s.node s.draws) D := by
  obtain ⟨-, hqueue⟩ := builtForest_wf sel s hpos
  refine isOptimalOn_of_mergeLoop sel (totalCount_lt s.freq) (m := (presentSyms s.freq).length)
    (by rw [seedForest_queue_length]; exact Nat.le_succ _) (forestWf_seedForest s.freq s.node s.draws hpos) ?_ hD.child
  intro i hi
  rw [← builtForest, hqueue, List.mem_singleton] at hi
  exact hi ▸ hD.root_eq

/-- A sum over the leaves, weighted, is one over the symbols, weighted by their counts. -/
theorem cost_seedForest {len : NodeIx → Nat} {F : Sym → Nat}
    (h : ∀ i : NodeIx, i.val < (presentSyms s.freq).length → len i = F (leafSym (s.buildTree sel).node i)) :
    cost (seedForest s.freq s.node s.draws).queue.toFinset
      (fun i => (weightAt (seedForest s.freq s.node s.draws).node i).toNat) len =
    ∑ c : Sym, (s.freqAt c).toNat * F c := by
  refine Eq.trans (Finset.sum_congr rfl fun i hi => ?_) (sum_seedForest_queue s.freq s.node s.draws F)
  have hi := (mem_seedForest_queue_iff _ _ _).mp (List.mem_toFinset.mp hi)
  rw [h i hi, leafSym_buildTree sel hi]

/-- The number of bits, with the counts that BUILD and GENC leave as they were. -/
theorem weightedLength_eq_sum (hexec : exec .genc (s.buildTree sel) = .next t) :
    weightedLength t = ∑ c : Sym, (s.freqAt c).toNat * (t.lenAt c).toNat := by
  obtain ⟨tab, -, rfl⟩ := exec_genc_eq_next_iff.mp hexec
  exact sum_allSyms _

/-- The number of bits after GENC on BUILD's tree is at most that of any lengths that satisfy the Kraft inequality on
the symbols with an entry. -/
theorem weightedLength_le (hsize : 2 ≤ (presentSyms s.freq).length)
    (hexec : exec .genc (s.buildTree sel) = .next t) (lens : Sym → Nat)
    (hkraft : ∑ c ∈ {c : Sym | s.freqAt c ≠ 0}, (1 / 2 : ℚ) ^ lens c ≤ 1) :
    weightedLength t ≤ ∑ c : Sym, (s.freqAt c).toNat * lens c := by
  have htree := buildTree_treeWf sel s
  have hsizeVal := s.buildTree_treeSize_val sel
  obtain ⟨D, hD⟩ := htree.exists_isPathLength (by omega)
  have hdepth := hD.isDepth htree (by omega)
  have hlen : ∀ i : NodeIx, i.val < (presentSyms s.freq).length →
      D i = (t.lenAt (leafSym (s.buildTree sel).node i)).toNat := fun i hi =>
    (lenAt_of_isPathLength htree (hsizeVal ▸ hsize) hexec hD (hsizeVal ▸ hi)).1.symm
  rw [hsizeVal] at hdepth htree
  rw [← leafSyms_buildTree sel, htree.sum_leafSyms] at hkraft
  have hopt := isOptimalOn_seedForest sel (by omega) hdepth (fun i => lens (leafSym (s.buildTree sel).node i))
    (by rw [kraftSum, seedForest_queue_toFinset]; exact hkraft)
  rw [cost_seedForest sel (F := fun c => (t.lenAt c).toNat) hlen, cost_seedForest sel fun _ _ => rfl] at hopt
  exact (weightedLength_eq_sum sel hexec).trans_le hopt

end

/-- Settles O37: the depths of BUILD's leaves cost no more than the given lengths. -/
theorem huffmanTreeIsOptimal : Obligations.HuffmanTreeIsOptimal := by
  intro sel s t lens hexec syms hsize hkraft
  have hcost : (syms.map fun c => (s.freqAt c).toNat * lens c).sum = ∑ c : Sym, (s.freqAt c).toNat * lens c :=
    sum_presentSyms s.freq lens
  rw [hcost]
  refine weightedLength_le sel hsize hexec lens ?_
  rwa [← sum_filter_allSyms]

/-- With fewer than two symbols the tree does not depend on the oracle, and so neither does the code table. -/
theorem exec_genc_buildTree_of_lt_two {sel₁ sel₂ : Nat → Nat} {s t₁ t₂ : State}
    (hsize : (presentSyms s.freq).length < 2) (h₁ : exec .genc (s.buildTree sel₁) = .next t₁)
    (h₂ : exec .genc (s.buildTree sel₂) = .next t₂) : weightedLength t₁ = weightedLength t₂ := by
  obtain ⟨tab₁, htab₁, rfl⟩ := exec_genc_eq_next_iff.mp h₁
  obtain ⟨tab₂, htab₂, rfl⟩ := exec_genc_eq_next_iff.mp h₂
  obtain ⟨hnode₁, hroot₁, -⟩ := s.buildTree_of_lt_two sel₁ hsize
  obtain ⟨hnode₂, hroot₂, -⟩ := s.buildTree_of_lt_two sel₂ hsize
  have hroot : (s.buildTree sel₁).root = (s.buildTree sel₂).root := Fin.ext (hroot₁.trans hroot₂.symm)
  rw [s.buildTree_treeSize_val, hroot, hnode₁, ← hnode₂, ← s.buildTree_treeSize_val sel₂] at htab₁
  obtain rfl : tab₁ = tab₂ := Except.ok.inj (htab₁.symm.trans htab₂)
  rfl

/-- Settles O36: each of the two code tables satisfies the Kraft inequality, so neither takes more bits than the
other. -/
theorem weightedLengthIndependentOfTies : Obligations.WeightedLengthIndependentOfTies := by
  intro sel₁ sel₂ s t₁ t₂ h₁ h₂
  obtain hsize | hsize := Nat.lt_or_ge (presentSyms s.freq).length 2
  · exact exec_genc_buildTree_of_lt_two hsize h₁ h₂
  have hle {sel sel' : Nat → Nat} {t t' : State} (h : exec .genc (s.buildTree sel) = .next t)
      (h' : exec .genc (s.buildTree sel') = .next t') : weightedLength t ≤ weightedLength t' := by
    have hsize' := s.buildTree_treeSize_val sel'
    have hkraft := kraft_lenAt (buildTree_treeWf sel' s) (hsize'.symm ▸ hsize) h'
    rw [hsize', leafSyms_buildTree sel'] at hkraft
    exact (weightedLength_le sel hsize h (fun c => (t'.lenAt c).toNat) hkraft.le).trans_eq
      (weightedLength_eq_sum sel' h').symm
  exact Nat.le_antisymm (hle h₁ h₂) (hle h₂ h₁)

end Sys2Proof.Machine
end

section
/-! PROOFS. The invariant: its two halves, what each turn of either agent does to them, and that no turn stops where it
holds. The obligations O20, O21 and O22. -/

namespace Sys2Proof.Safety

open Sys2Proof.Machine

/-! The invariant in two halves. -/

/-- The half of the invariant that is about the tables: their form, the tree, and the code table. -/
structure TablesWf (s : State) : Prop where
  freq_wf : tableWf 0 256 s.freq
  node_wf : tableWf blankNode 511 s.node
  codes_wf : CodeTab.Wf { len := s.len, code := s.code }
  tree_wf : TreeWf s.treeSize.val s.root s.node
  codes_valid : s.codesValid = true → genTable s.treeSize.val s.root s.node = .ok { len := s.len, code := s.code }
  codes_invalid : s.codesValid = false → s.len = [] ∧ s.code = []
  code_fits : ∀ c, (s.codeAt c).toNat < 2 ^ (s.lenAt c).toNat

/-- The half of the invariant that is about the command that runs: its result code, its word and the sequencer. -/
structure ControlWf (s : State) : Prop where
  errcode_le : s.errcode.toNat ≤ 3
  errinfo_lt : s.errinfo.toNat < 256
  errcode_busy : s.busy = true → s.errcode = 0
  cmd_latched : s.busy = true → s.lcmd = s.cmd
  seq_wf : SeqWf s

theorem Inv.tables {s : State} (h : Inv s) : TablesWf s :=
  ⟨h.freq_wf, h.node_wf, ⟨h.len_wf, h.code_wf⟩, h.tree_wf, h.codes_valid, h.codes_invalid, h.code_fits⟩

theorem Inv.control {s : State} (h : Inv s) : ControlWf s :=
  ⟨h.errcode_le, h.errinfo_lt, h.errcode_busy, h.cmd_latched, h.seq_wf⟩

theorem inv_of_halves {s : State} (h : TablesWf s) (hc : ControlWf s) : Inv s :=
  ⟨h.freq_wf, h.node_wf, h.codes_wf.1, h.codes_wf.2, h.tree_wf, h.codes_valid, h.codes_invalid, h.code_fits,
    hc.errcode_le, hc.errinfo_lt, hc.errcode_busy, hc.cmd_latched, hc.seq_wf⟩

/-! The tables. -/

section
variable {s t : State}

theorem TablesWf.of_same (h : TablesWf s) (hfreq : SameFreq s t) (htree : SameTree s t) (hcodes : SameCodes s t) :
    TablesWf t := by
  obtain ⟨hsize, hroot, hnode⟩ := htree
  obtain ⟨hlen, hcode, hvalid⟩ := hcodes
  refine ⟨hfreq ▸ h.freq_wf, hnode ▸ h.node_wf, ?_, ?_, ?_, ?_, fun c => ?_⟩
  · rw [hlen, hcode]
    exact h.codes_wf
  · rw [hsize, hroot, hnode]
    exact h.tree_wf
  · rw [hsize, hroot, hnode, hlen, hcode, hvalid]
    exact h.codes_valid
  · rw [hlen, hcode, hvalid]
    exact h.codes_invalid
  · rw [State.codeAt_congr hcode, State.lenAt_congr hlen]
    exact h.code_fits c

/-- FREQ stands apart from the tree and the code table. -/
theorem TablesWf.of_freq (h : TablesWf s) (hfreq : tableWf 0 256 t.freq) (htree : SameTree s t)
    (hcodes : SameCodes s t) : TablesWf t := by
  have hrest : TablesWf { t with freq := s.freq } := h.of_same rfl htree hcodes
  exact ⟨hfreq, hrest.node_wf, hrest.codes_wf, hrest.tree_wf, hrest.codes_valid, hrest.codes_invalid, hrest.code_fits⟩

/-- An invalid code table is empty (R36, R121). -/
theorem TablesWf.of_no_codes (hfreq : tableWf 0 256 s.freq) (hnode : tableWf blankNode 511 s.node)
    (htree : TreeWf s.treeSize.val s.root s.node) (hlen : s.len = []) (hcode : s.code = [])
    (hvalid : s.codesValid = false) : TablesWf s := by
  refine ⟨hfreq, hnode, ?_, htree, fun htrue => ?_, fun _ => ⟨hlen, hcode⟩, fun c => ?_⟩
  · rw [hlen, hcode]
    exact CodeTab.wf_empty
  · rw [hvalid] at htrue
    cases htrue
  · rw [State.codeAt, State.lenAt, hlen, hcode]
    exact Nat.one_pos

/-! The arena BUILD leaves is in canonical form (log 14). -/

theorem seedLeaves_wf (freq : Table Word) (syms : List Sym) (k : Nat) {node : Table Node}
    (hk : k + syms.length ≤ 511) (h : tableWf blankNode 511 node) :
    tableWf blankNode 511 (seedLeaves freq syms k node) := by
  induction syms generalizing k node with
  | nil => exact h
  | cons c syms ih =>
    rw [List.length_cons] at hk
    exact ih (k + 1) (by omega) (tableWf_set 511 node k _ h (by omega))

theorem mergeLoop_node_wf (sel : Nat → Nat) (m : Nat) {f : Forest} (hcount : f.next + f.queue.length ≤ 512)
    (h : tableWf blankNode 511 f.node) : tableWf blankNode 511 (Forest.mergeLoop sel m f).node := by
  induction m generalizing f with
  | zero => exact h
  | succ m ih =>
    obtain hq | hq := Nat.lt_or_ge f.queue.length 2
    · rwa [Forest.mergeLoop_of_lt_two sel _ hq]
    · obtain ⟨a, b, k, hmerge⟩ := Forest.exists_isMerge sel hq (by omega)
      have hlength := hmerge.queue_length
      have hnext := hmerge.next_eq
      rw [Forest.mergeLoop_succ_of_two_le sel m hq]
      refine ih (by omega) ?_
      rw [f.merge_eq sel rfl rfl]
      dsimp only
      exact tableWf_set 511 f.node f.next _ h (by omega)

theorem buildTree_node_wf (sel : Nat → Nat) (h : tableWf blankNode 511 s.node) :
    tableWf blankNode 511 (s.buildTree sel).node := by
  have hsize := presentSyms_length_le s.freq
  refine mergeLoop_node_wf sel _ ?_ (seedLeaves_wf s.freq _ 0 (by omega) h)
  have hnext : (seedForest s.freq s.node s.draws).next = (presentSyms s.freq).length := rfl
  rw [seedForest_queue_length, hnext]
  omega

theorem TablesWf.buildTree (h : TablesWf s) (sel : Nat → Nat) : TablesWf (s.buildTree sel) :=
  .of_no_codes h.freq_wf (buildTree_node_wf sel h.node_wf) (buildTree_treeWf sel s) rfl rfl rfl

/-! The code table GENC leaves (R35). -/

/-- CODE < 2^LEN in the entry of the symbol `c`. -/
def CodeFits (tab : CodeTab) (c : Sym) : Prop := (tab.entry c).2.toNat < 2 ^ (tab.entry c).1.toNat

theorem codeFits_empty (c : Sym) : CodeFits { len := [], code := [] } c := Nat.one_pos

theorem codeFits_walk {node : Table Node} {root : NodeIx} {tab : CodeTab}
    (h : walk node 256 root 0 0 { len := [], code := [] } = some tab) (c : Sym) : CodeFits tab c := by
  obtain ⟨p, -, hlen, hentry⟩ | ⟨-, hentry⟩ := walk_entry_cases h c
  · have hle : p.length ≤ 255 := Nat.le_of_lt_succ hlen
    rw [CodeFits, hentry, Nat.zero_add, BitVec.toNat_ofNat, Nat.mod_eq_of_lt hlen]
    exact appendBits_zero_toNat_lt hle
  · rw [CodeFits, hentry]
    exact codeFits_empty c

theorem codeFits_genTable {size : Nat} {root : NodeIx} {node : Table Node} {tab : CodeTab} (h : TreeWf size root node)
    (htab : genTable size root node = .ok tab) (c : Sym) : CodeFits tab c := by
  match size, h with
  | 0, _ =>
    obtain rfl := Except.ok.inj htab
    exact codeFits_empty c
  | 1, h =>
    obtain ⟨d, w, hn⟩ := h.leaves 0 Nat.one_pos
    rw [← show root.val = 0 from h.root_eq] at hn
    obtain rfl := Except.ok.inj ((genTable_one_of_leaf hn).symm.trans htab)
    rw [CodeFits, CodeTab.entry_put]
    split
    · exact Nat.one_lt_two
    · exact codeFits_empty c
  | n + 2, _ => exact codeFits_walk ((genTable_eq_ok_iff_of_two_le (by omega)).mp htab) c

theorem TablesWf.completeGenc (h : TablesWf s) {tab : CodeTab}
    (htab : genTable s.treeSize.val s.root s.node = .ok tab) : TablesWf (s.completeGenc tab) := by
  obtain ⟨tab', htab', hwf⟩ := exists_genTable_eq_ok h.tree_wf
  obtain rfl := Except.ok.inj (htab.symm.trans htab')
  exact ⟨h.freq_wf, h.node_wf, hwf, h.tree_wf, fun _ => htab, fun hfalse => (by cases hfalse),
    codeFits_genTable h.tree_wf htab⟩

end

/-! The command that runs. -/

section
variable {s t : State}

theorem ControlWf.of_idle (e : ErrCode) (herrcode : t.errcode = e) (hle : e.toNat ≤ 3)
    (herrinfo : t.errinfo.toNat < 256) (hidle : t.seq = .idle) : ControlWf t := by
  have hbusy : ¬ t.busy = true := by simp [State.busy_eq_false_of_idle hidle]
  exact ⟨herrcode ▸ hle, herrinfo, fun h => absurd h hbusy, fun h => absurd h hbusy, by simp [SeqWf, hidle]⟩

/-- While a command runs, only its sequencer state can break this half. -/
theorem ControlWf.of_running (h : ControlWf s) (hbusy : s.seq ≠ .idle) (herrcode : t.errcode = s.errcode)
    (herrinfo : t.errinfo.toNat < 256) (hlcmd : t.lcmd = s.lcmd) (hcmd : t.cmd = s.cmd) (hseq : SeqWf t) :
    ControlWf t := by
  have hbusy := s.busy_eq_true_iff.mpr hbusy
  refine ⟨herrcode ▸ h.errcode_le, herrinfo, fun _ => ?_, fun _ => ?_, hseq⟩
  · rw [herrcode, h.errcode_busy hbusy]
  · rw [hlcmd, hcmd, h.cmd_latched hbusy]

/-! What the sequencer state of `s` presupposes, one state at a time. -/

theorem SeqWf.encFetch (h : SeqWf s) (hseq : s.seq = .encFetch) : decode s.lcmd = some .enc := by
  simpa only [SeqWf, hseq] using h

theorem SeqWf.encBit {c : Sym} {j : Nat} (h : SeqWf s) (hseq : s.seq = .encBit c j) :
    decode s.lcmd = some .enc ∧ j < (s.lenAt c).toNat := by
  simpa only [SeqWf, hseq] using h

theorem SeqWf.encClose {e : ErrCode} (h : SeqWf s) (hseq : s.seq = .encClose e) :
    decode s.lcmd = some .enc ∧ (e = 0 ∨ e = 3) := by
  simpa only [SeqWf, hseq] using h

theorem SeqWf.decFetch (h : SeqWf s) (hseq : s.seq = .decFetch) :
    decode s.lcmd = some .dec ∧ 1 ≤ s.treeSize.val ∧ (s.treeSize.val = 1 → s.decPtr = s.root) ∧
      (2 ≤ s.treeSize.val → s.treeSize.val ≤ s.decPtr.val ∧ s.decPtr.val < s.nodeCount) := by
  simpa only [SeqWf, hseq] using h

theorem SeqWf.decEmit {c : Sym} (h : SeqWf s) (hseq : s.seq = .decEmit c) :
    decode s.lcmd = some .dec ∧ 1 ≤ s.treeSize.val ∧ s.decPtr = s.root := by
  simpa only [SeqWf, hseq] using h

theorem SeqWf.decClose (h : SeqWf s) (hseq : s.seq = .decClose) : decode s.lcmd = some .dec := by
  simpa only [SeqWf, hseq] using h

/-- DEC can fetch with its pointer at the root. -/
theorem seqWf_decFetch_root (htree : TreeWf s.treeSize.val s.root s.node) (hseq : s.seq = .decFetch)
    (hdec : decode s.lcmd = some .dec) (hpos : 1 ≤ s.treeSize.val) (hptr : s.decPtr = s.root) : SeqWf s := by
  have hroot := htree.root_eq
  simp only [SeqWf, hseq, hptr, State.nodeCount_of_pos hpos]
  exact ⟨hdec, hpos, fun _ => trivial, fun _ => by omega⟩

end

/-! The core's turn. -/

section
variable {s t : State}

theorem coreTurn_tablesWf (h : TablesWf s) (hturn : CoreTurn s t) : TablesWf t := by
  obtain ⟨hfreq, htree, hcodes, -⟩ | ⟨i, -, heffect⟩ := hturn.sameTables_or_command
  · exact h.of_same hfreq htree hcodes
  cases heffect with
  | clrf => exact h.of_freq (tableWf_nil 256) ⟨rfl, rfl, rfl⟩ ⟨rfl, rfl, rfl⟩
  | wrf c => exact h.of_freq (tableWf_set 256 s.freq c.toNat s.ldata h.freq_wf c.isLt) ⟨rfl, rfl, rfl⟩ ⟨rfl, rfl, rfl⟩
  | build => exact (h.buildTree Config.tieSel).of_same rfl ⟨rfl, rfl, rfl⟩ ⟨rfl, rfl, rfl⟩
  | genc htab => exact h.completeGenc htab
  | _ => exact h.of_same rfl ⟨rfl, rfl, rfl⟩ ⟨rfl, rfl, rfl⟩

theorem execEffect_controlWf {i : Instr} (h : Inv s) (hrun : AboutToRun i s) (heffect : ExecEffect s i t) :
    ControlWf t := by
  have hbusy : s.seq ≠ .idle := by simp [hrun.1]
  cases heffect with
  | enc => exact h.control.of_running hbusy rfl h.errinfo_lt rfl rfl hrun.2
  | dec =>
    refine h.control.of_running hbusy rfl h.errinfo_lt rfl rfl ?_
    by_cases hsize : s.treeSize.val = 0
    · simp only [SeqWf, State.decStarted_seq_of_absent hsize]
      exact hrun.2
    · have hpos := Nat.pos_of_ne_zero hsize
      exact seqWf_decFetch_root h.tree_wf (State.decStarted_seq_of_present hpos) hrun.2 hpos rfl
  | range => exact .of_idle 2 rfl (by decide) h.errinfo_lt rfl
  | _ => exact .of_idle 0 rfl (by decide) h.errinfo_lt rfl

theorem coreTurn_controlWf (h : Inv s) (hturn : CoreTurn s t) : ControlWf t := by
  have hc := h.control
  have herrinfo := h.errinfo_lt
  cases hturn with
  | held => exact hc
  | illegal => exact .of_idle 1 rfl (by decide) herrinfo rfl
  | command hrun heffect => exact execEffect_controlWf h hrun heffect
  | encFin hseq => exact hc.of_running (by simp [hseq]) rfl herrinfo rfl rfl ⟨hc.seq_wf.encFetch hseq, .inl rfl⟩
  | @encNoCode c q hseq =>
    refine hc.of_running (by simp [hseq]) rfl ?_ rfl rfl ⟨hc.seq_wf.encFetch hseq, .inr rfl⟩
    exact (BitVec.toNat_setWidth_of_le (by decide)).trans_lt c.isLt
  | @encSym c q hseq _ hlen =>
    refine hc.of_running (by simp [hseq]) rfl herrinfo rfl rfl ⟨hc.seq_wf.encFetch hseq, ?_⟩
    have hpos : (s.lenAt c).toNat ≠ 0 := fun hzero => hlen (BitVec.eq_of_toNat_eq hzero)
    exact Nat.sub_lt (Nat.pos_of_ne_zero hpos) Nat.one_pos
  | encLastBit hseq => exact hc.of_running (by simp [hseq]) rfl herrinfo rfl rfl (hc.seq_wf.encBit hseq).1
  | encBit hseq =>
    obtain ⟨hdec, hlt⟩ := hc.seq_wf.encBit hseq
    exact hc.of_running (by simp [hseq]) rfl herrinfo rfl rfl ⟨hdec, Nat.lt_of_succ_lt hlt⟩
  | @encClose e hseq =>
    have hle : e.toNat ≤ 3 := by
      obtain ⟨-, rfl | rfl⟩ := hc.seq_wf.encClose hseq <;> decide
    exact .of_idle e rfl hle herrinfo rfl
  | decFin hseq => exact hc.of_running (by simp [hseq]) rfl herrinfo rfl rfl (hc.seq_wf.decFetch hseq).1
  | decSingleton hseq hsize =>
    obtain ⟨hdec, hpos, hptr, -⟩ := hc.seq_wf.decFetch hseq
    exact hc.of_running (by simp [hseq]) rfl herrinfo rfl rfl ⟨hdec, hpos, hptr (Nat.le_antisymm hsize hpos)⟩
  | decLeaf hseq =>
    obtain ⟨hdec, hpos, -⟩ := hc.seq_wf.decFetch hseq
    exact hc.of_running (by simp [hseq]) rfl herrinfo rfl rfl ⟨hdec, hpos, rfl⟩
  | @decDown b q l r l' r' v w hseq hsize _ hptr hchild =>
    obtain ⟨hdec, hpos, -, hin⟩ := hc.seq_wf.decFetch hseq
    obtain ⟨hge, hlt⟩ := hin hsize
    rw [State.nodeCount_of_pos hpos] at hlt
    obtain ⟨-, hl, hr, -⟩ := h.tree_wf.internal_cases hlt hptr
    have hchildLt := child_lt (hl.trans hlt) (hr.trans hlt) b
    have hmem := mem_internalSet.mp (mem_internalSet_of_internal h.tree_wf hchildLt hchild)
    refine hc.of_running (by simp [hseq]) rfl herrinfo rfl rfl ?_
    simp only [SeqWf, hseq]
    exact ⟨hdec, hpos, fun hone => absurd hone (by omega), fun _ =>
      ⟨hmem.1, hmem.2.trans_eq (State.nodeCount_of_pos hpos).symm⟩⟩
  | decEmit hseq =>
    obtain ⟨hdec, hpos, hptr⟩ := hc.seq_wf.decEmit hseq
    exact hc.of_running (by simp [hseq]) rfl herrinfo rfl rfl (seqWf_decFetch_root h.tree_wf rfl hdec hpos hptr)
  | decClose => exact .of_idle 0 rfl (by decide) herrinfo rfl

theorem coreTurn_inv (h : Inv s) (hturn : CoreTurn s t) : Inv t :=
  inv_of_halves (coreTurn_tablesWf h.tables hturn) (coreTurn_controlWf h hturn)

/-! The host's turn. -/

theorem inv_blockReset (s : State) : Inv s.blockReset :=
  inv_of_halves (.of_no_codes (tableWf_nil 256) (tableWf_nil 511) (treeWf_absent 0 [] rfl) rfl rfl rfl)
    (.of_idle 0 rfl (by decide) (by simp) rfl)

theorem Inv.accept (h : Inv s) (v : Word) : Inv (s.accept v) :=
  inv_of_halves (h.tables.of_same rfl ⟨rfl, rfl, rfl⟩ ⟨rfl, rfl, rfl⟩)
    ⟨by simp, by simp, fun _ => rfl, fun _ => rfl, trivial⟩

/-- Nothing the invariant speaks of is the host's. -/
theorem hostFrame_inv (h : Inv s) (hframe : HostFrame s t) : Inv t := by
  rw [hframe]
  have hc := h.control
  exact inv_of_halves (h.tables.of_same rfl ⟨rfl, rfl, rfl⟩ ⟨rfl, rfl, rfl⟩)
    ⟨hc.errcode_le, hc.errinfo_lt, hc.errcode_busy, hc.cmd_latched, hc.seq_wf⟩

theorem hostTurn_inv (h : Inv s) (hturn : HostTurn s t) : Inv t := by
  obtain hframe | ⟨-, v, rest, -, hframe⟩ | ⟨-, hframe⟩ := hturn
  · exact hostFrame_inv h hframe
  · exact hostFrame_inv (h.accept v) hframe
  · exact hostFrame_inv (inv_blockReset s) hframe

theorem Inv.setSched (h : Inv s) (sched : List Agent) : Inv { s with sched := sched } :=
  hostFrame_inv h rfl

/-- Settles O20: the state after reset is what a reset leaves of it. -/
theorem invariantHoldsAtReset : Obligations.InvariantHoldsAtReset :=
  inv_blockReset State.reset

/-- Settles O21: a turn of either agent keeps both halves. -/
theorem stepKeepsInvariant : Obligations.StepKeepsInvariant := by
  intro s t h hstep
  obtain ⟨rest, hturn⟩ | ⟨rest, hturn⟩ := turn_of_step hstep
  · exact coreTurn_inv (h.setSched rest) hturn
  · exact hostTurn_inv (h.setSched rest) hturn

/-! No turn stops (R7, R34, R183). -/

theorem exists_exec_of_inv (h : Inv s) (i : Instr) : ∃ t, exec i s = .next t := by
  by_cases hi : i = .genc
  · obtain ⟨tab, htab, -⟩ := exists_genTable_eq_ok h.tree_wf
    exact ⟨_, hi ▸ exec_genc_of_genTable rfl htab⟩
  · obtain ⟨t, ht, -⟩ := exists_execEffect hi s
    exact ⟨t, ht⟩

/-- On the singleton tree the root is a leaf (R34). -/
theorem exists_decFetchSingleton_of_inv (h : Inv s) (hsize : s.treeSize.val = 1) :
    ∃ t, decFetchSingleton s = .next t := by
  obtain ⟨-, heq⟩ | ⟨q, -, heq⟩ | ⟨b, q, c, w, -, -, heq⟩ | ⟨b, q, l, r, w, -, hroot, -⟩ := decFetchSingleton_cases s
  · exact ⟨_, heq⟩
  · exact ⟨_, heq⟩
  · exact ⟨_, heq⟩
  · have hval := h.tree_wf.root_eq
    obtain ⟨hge, -⟩ := h.tree_wf.internal_cases (by omega) hroot
    omega

theorem exists_decFetchTree_of_inv (h : Inv s) (hseq : s.seq = .decFetch) (hsize : 2 ≤ s.treeSize.val) :
    ∃ t, decFetchTree s = .next t := by
  obtain ⟨-, heq⟩ | ⟨q, -, heq⟩ | ⟨b, q, c, w, -, hleaf, -⟩ | ⟨b, q, l, r, w, c, v, -, -, -, heq⟩ |
    ⟨b, q, l, r, w, l', r', v, -, -, -, heq⟩ := decFetchTree_cases s
  · exact ⟨_, heq⟩
  · exact ⟨_, heq⟩
  · obtain ⟨l, r, w', hn⟩ := nodeAt_decPtr_of_inv h hseq hsize
    cases hleaf.symm.trans hn
  · exact ⟨_, heq⟩
  · exact ⟨_, heq⟩

theorem exists_coreStep_of_inv (h : Inv s) : ∃ t, coreStep s = .next t := by
  cases hseq : s.seq with
  | idle => exact ⟨_, coreStep_idle hseq⟩
  | exec =>
    cases hdec : decode s.lcmd with
    | none => exact ⟨_, coreStep_of_decode_eq_none hseq hdec⟩
    | some i =>
      rw [coreStep_of_decode_eq_some hseq hdec]
      exact exists_exec_of_inv h i
  | encFetch => exact ⟨_, coreStep_encFetch hseq⟩
  | encBit c j => exact ⟨_, coreStep_encBit hseq⟩
  | encClose e => exact ⟨_, coreStep_encClose hseq⟩
  | decFetch =>
    obtain ⟨-, hpos, -⟩ := h.seq_wf.decFetch hseq
    obtain hone | htwo : s.treeSize.val = 1 ∨ 2 ≤ s.treeSize.val := by omega
    · rw [coreStep_decFetch_of_singleton hseq hone]
      exact exists_decFetchSingleton_of_inv h hone
    · rw [coreStep_decFetch_of_two_le hseq htwo]
      exact exists_decFetchTree_of_inv h hseq htwo
  | decEmit c => exact ⟨_, coreStep_decEmit hseq⟩
  | decClose => exact ⟨_, coreStep_decClose hseq⟩

/-- Settles O22: the host's turn always has a next state, and the core's has one where the tree is as the invariant
says. -/
theorem invariantStatesNeverStop : Obligations.InvariantStatesNeverStop := by
  intro s h
  obtain ⟨rest, -, hs⟩ | ⟨rest, -, hs⟩ | ⟨-, -, hs⟩ | ⟨-, -, hs⟩ := step_cases s <;> rw [hs]
  · exact exists_coreStep_of_inv (h.setSched rest)
  · exact ⟨_, rfl⟩
  · exact exists_coreStep_of_inv h
  · exact ⟨_, rfl⟩

end

end Sys2Proof.Safety
end
